-- ==== Sys2Proof/Word.lean ====
section
/-! DEFINITION. The words of the block: a byte (00_scope.md R7) and a nibble (30_encoding.md R74). -/

namespace Sys2Proof

/-- A byte, 8 bits, an unsigned integer 0 to 255 (R7). -/
abbrev Byte := BitVec 8

/-- A nibble, an unsigned 4-bit value 0 to 15; nothing is sign-extended (R74). -/
abbrev Nibble := BitVec 4

end Sys2Proof
end

