-- ==== Sys2Proof/Config.lean ====
section
/-! DEFINITION. What is fixed when the block is built (00_scope.md R6), and the free values. The fixed rows of R6 are
constants; the rows marked OPEN are the fields of `Config.Params`, which every statement over all states quantifies over,
because `State.params` carries them (log entry 2). -/

namespace Sys2Proof

/-- `START`, the start marker (R6). -/
abbrev Config.startMarker : Byte := 0x81#8

/-- `BUF_BYTES`, the size of `RXBUF` (R6). -/
abbrev Config.bufBytes : Nat := 257

/-- `CNT_SAT`, the value at which the receive byte counter saturates (R6). -/
abbrev Config.cntSat : Nat := 258

/-- `TXBUF_BYTES`, the size of `TXBUF` (R6). -/
abbrev Config.txBufBytes : Nat := 253

/-- `SENSOR_LEN`, the byte count of a sensor-reading frame (R6). -/
abbrev Config.sensorLen : Nat := 16

/-- A time stamp: the number that `TS_W` bits without meaning or format hold (R83). Nothing computes with one, so the
width, a parameter (`Config.Params.tsW`), is no part of the type. Log entry 3. -/
abbrev Ts := Nat

/-- The event word, 29 bits (R80). -/
abbrev EventWord := BitVec 29

/-- What the environment presents to one step: one event word, and a number at the `now` port, which passes its low `TS_W`
bits on (`Machine.atPorts`; R11, R80, R83). -/
structure Input where
  ew : EventWord
  now : Ts
  deriving DecidableEq, Repr, Inhabited

/-- The variants a registry can hold, by name: the registry is data, so that the state stays plain data. A further
variant of R131 is a further constructor. Log entry 13. -/
inductive Variant where
  /-- The pair (`accepts_sensor`, `decode_sensor`) of R131. -/
  | sensorReading
  deriving DecidableEq, Repr

/-- The rows of R6 marked OPEN, and the registry (R131). Log entry 2. -/
structure Config.Params where
  /-- `TS_W`, the width in bits of the `now` input and of `res_time` (R83). Log entry 3. -/
  tsW : Nat
  /-- `SENSOR_MASK`: which bits of a 16-byte frame are constant (R151). -/
  sensorMask : Vector Byte 16
  /-- `SENSOR_MATCH`: the values of those bits (R151). -/
  sensorMatch : Vector Byte 16
  /-- `HUM_CHECK_WHEN_ABSENT` (R158). -/
  humCheckWhenAbsent : Bool
  /-- `LABEL_A`, the model label of a sensor without humidity; software only (R167). -/
  labelA : String
  /-- `LABEL_B`, the model label of a sensor with humidity; software only (R167). -/
  labelB : String
  /-- `REGISTRY`, tried in this order, the generic fallback not among the entries (R131). -/
  registry : List Variant
  deriving DecidableEq, Repr

/-- The default values R6 gives. Log entries 2, 3, 7, 8, 13, 15. -/
def Config.defaultParams : Config.Params where
  tsW := 64
  sensorMask := #v[0xff#8, 0xff#8, 0xff#8, 0x00#8, 0xff#8, 0xf0#8, 0xff#8, 0xff#8,
                   0x00#8, 0x00#8, 0x00#8, 0x00#8, 0x00#8, 0x00#8, 0x00#8, 0x00#8]
  sensorMatch := #v[0x81#8, 0x0e#8, 0x04#8, 0x00#8, 0x05#8, 0x10#8, 0xa0#8, 0x01#8,
                    0x00#8, 0x00#8, 0x00#8, 0x00#8, 0x00#8, 0x00#8, 0x00#8, 0x00#8]
  humCheckWhenAbsent := false
  labelA := "HMS100T"
  labelB := "HMS100TF"
  registry := [.sensorReading]

/-- FREE VALUE: what stands at an index that holds no byte (R38, 93_implementation_defined.md U1: `any value`, never 0).
No body: no proof can see a value. No operation reads one in a state reached from reset. Log entry 4. -/
opaque Config.absentByte : Nat → Byte

/-- FREE VALUE: the length byte that `to_bytes` writes for a payload of the given length above 253, for which R181 states
none. No body. Log entry 17. -/
opaque Config.longLengthByte : Nat → Byte

/-- FREE VALUE: the input the environment presents in its n-th free step, under no law (R35, U4). No body. Log entry 1. -/
opaque Config.envInput : Nat → Input

end Sys2Proof
end

