-- ==== Sys2Proof/Syntax.lean ====
section
/-! DEFINITION. The instructions: one constructor for each row of spec/opcode_table.json. A row of format `EVENT` is one
event of a step (30_encoding.md R81); a row of format `FRAME16` or `FRAME` is a class of valid frames (R87), whose operands
are the fields of the frame. -/

namespace Sys2Proof

/-- The fields of a sensor-reading frame (30_encoding.md R73) that its class leaves open. The start marker, the length
byte and the checksum byte of a valid frame are determined by the rest (43_frame_tx.md R183 (iii)) and the nibble `sub` by
the class (R87), so none of the four is a field. The constant positions are fields, because `SENSOR_MASK` and
`SENSOR_MATCH` are parameters; `Instr.wf` checks them. -/
structure SensorFrame where
  /-- Byte 2, the type. -/
  typ : Byte
  /-- Byte 4. -/
  const4 : Byte
  /-- Byte 5, bits 7:4. -/
  const5hi : Nibble
  /-- Byte 6. -/
  const6 : Byte
  /-- Byte 7. -/
  const7 : Byte
  /-- Bytes 8 and 9, the address, byte 8 more significant. -/
  addr : BitVec 16
  /-- Bytes 10 and 11, not examined. -/
  unexamined : BitVec 16
  /-- Byte 12, bit 7. -/
  neg : Bool
  /-- Byte 12, bit 6. -/
  battNew : Bool
  /-- Byte 12, bit 5. -/
  battLow : Bool
  /-- Byte 12, bits 4:0, not examined. -/
  statusLow : BitVec 5
  /-- Byte 13, bits 7:4. -/
  n0 : Nibble
  /-- Byte 13, bits 3:0. -/
  n1 : Nibble
  /-- Byte 14, bits 7:4. -/
  n2 : Nibble
  /-- Byte 14, bits 3:0. -/
  n3 : Nibble
  /-- Byte 15, bits 7:4. -/
  n4 : Nibble
  /-- Byte 15, bits 3:0. -/
  n5 : Nibble
  deriving DecidableEq, Repr

/-- The instructions of the block. `now` is an operand of the events that end a received frame: a separate input port,
not part of the event word (R80, R81). -/
inductive Instr where
  /-- `RST`: reset (70_reset_and_hazards.md R230). -/
  | rst
  /-- `NOP`: a step without a strobe (00_scope.md R11). -/
  | nop
  /-- `RXB b`: receive one byte (40_frame_rx.md R105). -/
  | rxb (b : Byte)
  /-- `RXE`: end of received frame (R106). -/
  | rxe (now : Ts)
  /-- `RXBE b`: receive one byte and end the frame (R107). -/
  | rxbe (b : Byte) (now : Ts)
  /-- `TXB b`: accept one payload byte (43_frame_tx.md R186). -/
  | txb (b : Byte)
  /-- `TXE t`: build the frame of type `t` (R187). -/
  | txe (t : Byte)
  /-- `TXBE b t`: accept one payload byte and build (R188). -/
  | txbe (b t : Byte)
  /-- `SENSOR_TH`: a sensor-reading frame with `sub` = 0 (30_encoding.md R87, 42_sensor_decode.md R153). -/
  | sensorTh (f : SensorFrame) (now : Ts)
  /-- `SENSOR_T`: a sensor-reading frame with `sub` = 1 (R87, R153). -/
  | sensorT (f : SensorFrame) (now : Ts)
  /-- `GENERIC`: any other valid frame (R87, 41_dispatch.md R134). -/
  | generic (typ : Byte) (payload : List Byte) (now : Ts)
  deriving DecidableEq, Repr

/-- An encoded instruction: the input of one step, or the bytes of one frame with the `now` at its end. -/
inductive Encoded where
  /-- The event word and `now` of one step (R80). -/
  | event (inp : Input)
  /-- The byte sequence of one frame (R70), and the `now` its end samples (R83). -/
  | frame (raw : List Byte) (now : Ts)
  deriving DecidableEq, Repr

end Sys2Proof
end

