-- ==== Sys2Proof/Machine/Message.lean ====
section
/-! DEFINITION. The result shapes of the functional layer (00_scope.md R9) and the errors (60_exceptions.md R201). -/

namespace Sys2Proof.Machine

/-- Every error of the block (R201, the names of D1 §7). An error carries its name and nothing else. -/
inductive ErrorCode where
  | frameTooShort
  | badStartByte
  | lengthMismatch
  | checksumMismatch
  | unsupportedDeviceSubtype
  | invalidDigit
  | invalidTypeTag
  | payloadTooLong
  deriving DecidableEq, Repr

/-- The number of an error, 4 bits; 0 stands for none (R86, R201). -/
def ErrorCode.code : ErrorCode → BitVec 4
  | .frameTooShort => 1
  | .badStartByte => 2
  | .lengthMismatch => 3
  | .checksumMismatch => 4
  | .unsupportedDeviceSubtype => 5
  | .invalidDigit => 6
  | .invalidTypeTag => 7
  | .payloadTooLong => 8

/-- A frame as `from_type_and_payload` builds it: without a time stamp (43_frame_tx.md R180, R191). -/
structure BuiltFrame where
  typ : Byte
  checksum : Byte
  payload : List Byte
  deriving DecidableEq, Repr

/-- A received frame (R9, 40_frame_rx.md R104). -/
structure Frame extends BuiltFrame where
  receivedAt : Ts
  deriving DecidableEq, Repr

/-- A digit triple, most significant digit first (30_encoding.md R75, R76). -/
structure Digits where
  d2 : Nibble
  d1 : Nibble
  d0 : Nibble
  deriving DecidableEq, Repr

/-- A humidity that is present: tenths of a percent and its three digits (R9, 42_sensor_decode.md R161). -/
structure Humidity where
  value : Nat
  digits : Digits
  deriving DecidableEq, Repr

/-- A sensor reading (R9). `temp` is in tenths of a degree Celsius; an absent humidity is `none`, never 0 (R162). -/
structure SensorReading where
  frame : Frame
  addr : BitVec 16
  sub : Bool
  neg : Bool
  battNew : Bool
  battLow : Bool
  tdig : Digits
  temp : Int
  hum : Option Humidity
  deriving DecidableEq, Repr

/-- What a valid frame is classified as (R9). -/
inductive Message where
  | generic (f : Frame)
  | sensor (r : SensorReading)
  deriving DecidableEq, Repr

/-- The result of every operation of the functional layer: a value or an error, no third shape (R9). -/
abbrev Result := Except ErrorCode

end Sys2Proof.Machine
end

