-- ==== Sys2Proof/Machine/Operands.lean ====
section
/-! DEFINITION. The operand forms: the fields of the event word (30_encoding.md R80), bytes of a frame by index, nibbles
(R74), and the payload of a sensor-reading frame assembled from its fields (R73). -/

namespace Sys2Proof.Machine

/-- `EW[28]`, `rst` (R80). -/
def ewRst (ew : EventWord) : Bool := ew.getLsbD 28
/-- `EW[27]`, `tx_end` (R80). -/
def ewTxEnd (ew : EventWord) : Bool := ew.getLsbD 27
/-- `EW[26]`, `tx_valid` (R80). -/
def ewTxValid (ew : EventWord) : Bool := ew.getLsbD 26
/-- `EW[25]`, `rx_end` (R80). -/
def ewRxEnd (ew : EventWord) : Bool := ew.getLsbD 25
/-- `EW[24]`, `rx_valid` (R80). -/
def ewRxValid (ew : EventWord) : Bool := ew.getLsbD 24
/-- `EW[23:16]`, `tx_type` (R80). -/
def ewTxType (ew : EventWord) : Byte := ew.extractLsb' 16 8
/-- `EW[15:8]`, `tx_data` (R80). -/
def ewTxData (ew : EventWord) : Byte := ew.extractLsb' 8 8
/-- `EW[7:0]`, `rx_data` (R80). -/
def ewRxData (ew : EventWord) : Byte := ew.extractLsb' 0 8

/-- The event word with the strobe vector `ev` = {rst, tx_end, tx_valid, rx_end, rx_valid} and the three data fields (R80). -/
def packEventWord (ev : BitVec 5) (txType txData rxData : Byte) : EventWord :=
  ev ++ txType ++ txData ++ rxData

/-- What a block with the parameters `p` samples of an input: the event word, and the `TS_W` bits of its `now` port (R83).
A number that fits the port passes unchanged. Log entry 3. -/
def atPorts (p : Config.Params) (inp : Input) : Input := { inp with now := inp.now % 2 ^ p.tsW }

/-- The number is one that `TS_W` bits hold (R83). -/
def fitsTs (p : Config.Params) (now : Ts) : Bool := decide (now < 2 ^ p.tsW)

/-- `b[7:4]` (R7). -/
def hiNibble (b : Byte) : Nibble := b.extractLsb' 4 4
/-- `b[3:0]` (R7). -/
def loNibble (b : Byte) : Nibble := b.extractLsb' 0 4

/-- `raw[i]` (R7). For `i >= len(raw)` there is no byte, and every operation tests the length first (R38); the free value
stands there. Log entry 4. -/
def byteAt (raw : List Byte) (i : Nat) : Byte := raw.getD i (Config.absentByte i)

/-- The low nibble of byte 5 that a class stands for: 0 with humidity, 1 without (R73, R152). -/
def subNibble (noHumidity : Bool) : Nibble := if noHumidity then 1 else 0

/-- The 12 payload bytes (indices 4 to 15) of the sensor-reading frame with the fields `f`, in wire order (R73). -/
def sensorPayload (noHumidity : Bool) (f : SensorFrame) : List Byte :=
  [f.const4,
   f.const5hi ++ subNibble noHumidity,
   f.const6,
   f.const7,
   f.addr.extractLsb' 8 8, f.addr.extractLsb' 0 8,
   f.unexamined.extractLsb' 8 8, f.unexamined.extractLsb' 0 8,
   BitVec.ofBool f.neg ++ BitVec.ofBool f.battNew ++ BitVec.ofBool f.battLow ++ f.statusLow,
   f.n0 ++ f.n1,
   f.n2 ++ f.n3,
   f.n4 ++ f.n5]

/-- The fields of the sensor-reading frame `raw`, each from its byte and bits (R73). -/
def sensorFields (raw : List Byte) : SensorFrame where
  typ := byteAt raw 2
  const4 := byteAt raw 4
  const5hi := hiNibble (byteAt raw 5)
  const6 := byteAt raw 6
  const7 := byteAt raw 7
  addr := byteAt raw 8 ++ byteAt raw 9
  unexamined := byteAt raw 10 ++ byteAt raw 11
  neg := (byteAt raw 12).getLsbD 7
  battNew := (byteAt raw 12).getLsbD 6
  battLow := (byteAt raw 12).getLsbD 5
  statusLow := (byteAt raw 12).extractLsb' 0 5
  n0 := hiNibble (byteAt raw 13)
  n1 := loNibble (byteAt raw 13)
  n2 := hiNibble (byteAt raw 14)
  n3 := loNibble (byteAt raw 14)
  n4 := hiNibble (byteAt raw 15)
  n5 := loNibble (byteAt raw 15)

end Sys2Proof.Machine
end

