-- ==== Sys2Proof/Machine/Frame.lean ====
section
/-! DEFINITION. The functional layer of the frame: checksum and validation (40_frame_rx.md R100 to R104) and the transmit
framer (43_frame_tx.md R180 to R185). -/

namespace Sys2Proof.Machine

/-- One addition of the checksum: 8 bits, the carry dropped (R100). `acc` and `txacc` are updated by it (10_state.md R33). -/
def checksumStep (s b : Byte) : Byte := s + b

/-- `checksum(bs)` (R100). -/
def checksum (bs : List Byte) : Byte := bs.foldl checksumStep 0

/-- `validate(raw)`: the four checks, the first that fails decides (R102). The length is compared as an integer (R103 (i)). -/
def validate (raw : List Byte) : Result Unit :=
  if raw.length < 4 then .error .frameTooShort
  else if byteAt raw 0 ≠ Config.startMarker then .error .badStartByte
  else if (byteAt raw 1).toNat ≠ raw.length - 2 then .error .lengthMismatch
  else if byteAt raw 3 ≠ checksum (raw.drop 4) then .error .checksumMismatch
  else .ok ()

/-- The frame record of the sequence `raw` received at `now`: `{raw[2], raw[3], raw[4:], now}` (R104, R134). -/
def frameOf (raw : List Byte) (now : Ts) : Frame where
  typ := byteAt raw 2
  checksum := byteAt raw 3
  payload := raw.drop 4
  receivedAt := now

/-- `from_bytes(raw, now)` (R104). -/
def fromBytes (raw : List Byte) (now : Ts) : Result Frame :=
  match validate raw with
  | .error e => .error e
  | .ok () => .ok (frameOf raw now)

/-- `from_type_and_payload(type, payload)` (R180); more than 253 bytes is `PayloadTooLong` (R185). -/
def fromTypeAndPayload (typ : Byte) (payload : List Byte) : Result BuiltFrame :=
  if payload.length > Config.txBufBytes then .error .payloadTooLong
  else .ok { typ := typ, checksum := checksum payload, payload := payload }

/-- The same with the type tag given as a byte sequence: `InvalidTypeTag` unless it is exactly one byte (R184). No event
of the block can reach that error: `tx_type` is an 8-bit port. -/
def fromTagAndPayload (tag payload : List Byte) : Result BuiltFrame :=
  match tag with
  | [typ] => fromTypeAndPayload typ payload
  | _ => .error .invalidTypeTag

/-- The length byte of a payload of `n` bytes: `n + 2` (R71, R181). R181 is total but no byte holds `n + 2` above 253
bytes: there the model writes a free value. DESIGN CHOICE, log entry 17. -/
def lengthByte (n : Nat) : Byte :=
  if n ≤ Config.txBufBytes then BitVec.ofNat 8 (n + 2) else Config.longLengthByte n

/-- `to_bytes(f)` (R181). A received frame is serialised without its time stamp. Of a payload above 253 bytes, which no
operation of R180 or R104 gives a frame, the length byte is a free value (log entry 17). -/
def toBytes (f : BuiltFrame) : List Byte :=
  [Config.startMarker, lengthByte f.payload.length, f.typ, f.checksum] ++ f.payload

/-- `encode(type, payload)` (R136, R182). -/
def encodeBytes (typ : Byte) (payload : List Byte) : Result (List Byte) :=
  match fromTypeAndPayload typ payload with
  | .error e => .error e
  | .ok f => .ok (toBytes f)

/-- The wire bytes of the type and payload of a frame, the other header bytes computed (R70, R71). -/
def wireBytes (typ : Byte) (payload : List Byte) : List Byte :=
  toBytes { typ := typ, checksum := checksum payload, payload := payload }

/-- The 16 wire bytes of the sensor-reading frame with the fields `f` (R73). -/
def sensorBytes (noHumidity : Bool) (f : SensorFrame) : List Byte :=
  wireBytes f.typ (sensorPayload noHumidity f)

end Sys2Proof.Machine
end

