-- ==== Sys2Proof/Machine/Sensor.lean ====
section
/-! DEFINITION. The sensor-reading decoder: recognition, decoding, temperature and humidity (42_sensor_decode.md R150 to
R165). -/

namespace Sys2Proof.Machine

/-- Every constant position of `raw` has its value: `(raw[i] and SENSOR_MASK[i]) == SENSOR_MATCH[i]` for all `i` (R150,
R151). Asked of 16-byte sequences only. -/
def constantsMatch (p : Config.Params) (raw : List Byte) : Bool :=
  ((raw.zip p.sensorMask.toList).zip p.sensorMatch.toList).all fun x => (x.1.1 &&& x.1.2) == x.2

/-- `sub = raw[5][3:0]` (R152). -/
def subOf (raw : List Byte) : Nibble := loNibble (byteAt raw 5)

/-- `accepts_sensor(raw)` (R150). It looks neither at the digit nibbles nor, with the default mask, at the checksum. -/
def acceptsSensor (p : Config.Params) (raw : List Byte) : Bool :=
  raw.length == Config.sensorLen && constantsMatch p raw && decide ((subOf raw).toNat ≤ 1)

/-- Every digit of the triple is a decimal digit, 0 to 9 (R158). -/
def decimal (d : Digits) : Bool :=
  decide (d.d2.toNat ≤ 9) && decide (d.d1.toNat ≤ 9) && decide (d.d0.toNat ≤ 9)

/-- The integer a digit triple denotes: `100*d2 + 10*d1 + d0` (30_encoding.md R76). -/
def digitsValue (d : Digits) : Nat := 100 * d.d2.toNat + 10 * d.d1.toNat + d.d0.toNat

/-- The triple as 12 bits, first digit in bits 11:8 (10_state.md R27). -/
def packDigits (d : Digits) : BitVec 12 := d.d2 ++ d.d1 ++ d.d0

/-- The temperature digits `T = [n3, n0, n1]` (R157). -/
def tempDigits (raw : List Byte) : Digits where
  d2 := loNibble (byteAt raw 14)
  d1 := hiNibble (byteAt raw 13)
  d0 := loNibble (byteAt raw 13)

/-- The humidity digits `H = [n4, n5, n2]` (R157). -/
def humDigits (raw : List Byte) : Digits where
  d2 := hiNibble (byteAt raw 15)
  d1 := loNibble (byteAt raw 15)
  d0 := hiNibble (byteAt raw 14)

/-- The temperature in tenths of a degree: the magnitude, negated when the sign bit is set; `-0 = 0` (R159, R160). -/
def tempValue (neg : Bool) (mag : Nat) : Int := if neg then -(mag : Int) else mag

/-- The register form of a temperature: 11 bits two's complement, then sign-extended to 16 (R159). -/
def tempRegister (neg : Bool) (mag : Nat) : BitVec 16 :=
  (BitVec.ofNat 11 (if neg then (2048 - mag) % 2048 else mag)).signExtend 16

/-- `decode_sensor(raw, now)` (R153). The first test is the function's own guard, dead under `classify` (R164). The status
byte is `raw[12]` (R155; UNVERIFIED, log entry 6). -/
def decodeSensor (p : Config.Params) (raw : List Byte) (now : Ts) : Result Message :=
  let tdig := tempDigits raw
  let hdig := humDigits raw
  let neg := (byteAt raw 12).getLsbD 7
  let humPresent := !(subOf raw).getLsbD 0
  if (subOf raw).toNat > 1 then .error .unsupportedDeviceSubtype
  else if decimal tdig = false then .error .invalidDigit
  else if (humPresent || p.humCheckWhenAbsent) && !decimal hdig then .error .invalidDigit
  else .ok (.sensor
    { frame := frameOf raw now
      addr := byteAt raw 8 ++ byteAt raw 9
      sub := (subOf raw).getLsbD 0
      neg := neg
      battNew := (byteAt raw 12).getLsbD 6
      battLow := (byteAt raw 12).getLsbD 5
      tdig := tdig
      temp := tempValue neg (digitsValue tdig)
      hum := if humPresent then some { value := digitsValue hdig, digits := hdig } else none })

end Sys2Proof.Machine
end

