-- ==== Sys2Proof/Machine/Classify.lean ====
section
/-! DEFINITION. The dispatcher: the registry, `classify`, and the frame classes (41_dispatch.md R130 to R135,
30_encoding.md R87). -/

namespace Sys2Proof.Machine

/-- A (predicate, constructor) pair of the registry: pure total functions of the raw bytes and, for the constructor, `now`
(R131, R132). -/
structure Entry where
  accepts : List Byte → Bool
  construct : List Byte → Ts → Result Message

/-- The pair a variant's name stands for (R131). -/
def variantEntry (p : Config.Params) : Variant → Entry
  | .sensorReading => { accepts := acceptsSensor p, construct := decodeSensor p }

/-- `classify_valid` over any registry: the first entry that accepts decides, whatever its constructor answers; the generic
frame is the fallback (R130, R131). -/
def classifyValidWith (registry : List Entry) (raw : List Byte) (now : Ts) : Result Message :=
  match registry with
  | [] => .ok (.generic (frameOf raw now))
  | e :: rest => if e.accepts raw then e.construct raw now else classifyValidWith rest raw now

/-- `classify_valid(raw, now)` with the block's registry (R130). -/
def classifyValid (p : Config.Params) (raw : List Byte) (now : Ts) : Result Message :=
  classifyValidWith (p.registry.map (variantEntry p)) raw now

/-- `classify(raw, now)`: validation first, predicates on valid frames only (R130, R133). -/
def classify (p : Config.Params) (raw : List Byte) (now : Ts) : Result Message :=
  match validate raw with
  | .error e => .error e
  | .ok () => classifyValid p raw now

/-- Some entry of the registry accepts `raw`. -/
def claimed (p : Config.Params) (raw : List Byte) : Bool :=
  p.registry.any fun v => (variantEntry p v).accepts raw

/-- The frame classes of R87. -/
inductive FrameClass where
  | sensorTh
  | sensorT
  | generic
  deriving DecidableEq, Repr

/-- The class of a valid frame: the registered variant split by its two values of `sub`, everything else generic (R87). -/
def frameClass (p : Config.Params) (raw : List Byte) : FrameClass :=
  if claimed p raw then (if (subOf raw).getLsbD 0 then .sensorT else .sensorTh) else .generic

end Sys2Proof.Machine
end

