-- ==== Sys2Proof/WellFormed.lean ====
section
/-! DEFINITION. Which terms of `Instr` an encoding can carry. Every byte operand of an event is legal (30_encoding.md R81,
R88), and every `now` of `TS_W` bits (R83); a frame class takes the frames that R87 gives it, which depends on the
parameters of the block. -/

namespace Sys2Proof

/-- Check of `SENSOR_TH` and `SENSOR_T`: the registry claims the frame with these fields (R87). -/
def SensorFrame.wf (p : Config.Params) (noHumidity : Bool) (f : SensorFrame) : Bool :=
  Machine.claimed p (Machine.sensorBytes noHumidity f)

/-- First check of `GENERIC`: the payload fits a length byte, 0 to 253 bytes (R72, R87). -/
def genericFits (payload : List Byte) : Bool := decide (payload.length ≤ Config.txBufBytes)

/-- Second check of `GENERIC`: no earlier class claims the frame (R87). -/
def genericUnclaimed (p : Config.Params) (typ : Byte) (payload : List Byte) : Bool :=
  !Machine.claimed p (Machine.wireBytes typ payload)

/-- The instruction is well formed for a block built with the parameters `p`. -/
def Instr.wf (p : Config.Params) : Instr → Bool
  | .rst => true
  | .nop => true
  | .rxb _ => true
  | .rxe now => Machine.fitsTs p now
  | .rxbe _ now => Machine.fitsTs p now
  | .txb _ => true
  | .txe _ => true
  | .txbe _ _ => true
  | .sensorTh f now => f.wf p false && Machine.fitsTs p now
  | .sensorT f now => f.wf p true && Machine.fitsTs p now
  | .generic typ payload now => genericFits payload && genericUnclaimed p typ payload && Machine.fitsTs p now

/-- The instruction is an event of a step, not a frame class. -/
def Instr.isEvent : Instr → Bool
  | .rst => true
  | .nop => true
  | .rxb _ => true
  | .rxe _ => true
  | .rxbe _ _ => true
  | .txb _ => true
  | .txe _ => true
  | .txbe _ _ => true
  | .sensorTh _ _ => false
  | .sensorT _ _ => false
  | .generic _ _ _ => false

end Sys2Proof
end

