-- ==== Sys2Proof/Decode.lean ====
section
/-! DEFINITION. Decoding and encoding. An event word selects at most one receive and at most one transmit event, matched in
two independent groups (30_encoding.md R81, R82); the bytes of a valid frame select a frame class (R87). Both decoders are
total. -/

namespace Sys2Proof

open Machine

/-- Why a decoder refuses. -/
inductive DecodeError where
  /-- The byte sequence is no valid frame: it has no class (R87, R88). Carries the error of `validate`. -/
  | invalidFrame (e : ErrorCode)
  deriving DecidableEq, Repr

/-- The receive event of a step without `rst`, chosen by bits 25:24 (R81). -/
def receiveEvent (inp : Input) : Option Instr :=
  match ewRxEnd inp.ew, ewRxValid inp.ew with
  | false, false => none
  | false, true => some (.rxb (ewRxData inp.ew))
  | true, false => some (.rxe inp.now)
  | true, true => some (.rxbe (ewRxData inp.ew) inp.now)

/-- The transmit event of a step without `rst`, chosen by bits 27:26 (R81). -/
def transmitEvent (inp : Input) : Option Instr :=
  match ewTxEnd inp.ew, ewTxValid inp.ew with
  | false, false => none
  | false, true => some (.txb (ewTxData inp.ew))
  | true, false => some (.txe (ewTxType inp.ew))
  | true, true => some (.txbe (ewTxData inp.ew) (ewTxType inp.ew))

/-- The events one step performs, the receive event first (the order of the two groups cannot be observed, R60; log
entry 11): `rst` overrides everything, and a step without a strobe is `NOP` (R81, R82). -/
def eventsOf (inp : Input) : List Instr :=
  if ewRst inp.ew then [.rst]
  else match receiveEvent inp, transmitEvent inp with
    | none, none => [.nop]
    | some r, none => [r]
    | none, some t => [t]
    | some r, some t => [r, t]

/-- The frame-class instruction of a byte sequence taken as a valid frame: its class by the masks of R87, its operands by
R70 and R73. -/
def frameInstr (p : Config.Params) (raw : List Byte) (now : Ts) : Instr :=
  match frameClass p raw with
  | .sensorTh => .sensorTh (sensorFields raw) now
  | .sensorT => .sensorT (sensorFields raw) now
  | .generic => .generic (byteAt raw 2) (raw.drop 4) now

/-- The instruction of the frame `raw`; an invalid frame has no class and is refused by its error (R87, R88). -/
def decodeFrame (p : Config.Params) (raw : List Byte) (now : Ts) : Except DecodeError Instr :=
  match validate raw with
  | .error e => .error (.invalidFrame e)
  | .ok () => .ok (frameInstr p raw now)

/-- Decoding of either kind of input. -/
def decode (p : Config.Params) : Encoded → Except DecodeError (List Instr)
  | .event inp => .ok (eventsOf inp)
  | .frame raw now =>
    match decodeFrame p raw now with
    | .error e => .error e
    | .ok i => .ok [i]

/-- The encoder: the canonical event word, all ignored fields 0 (R84, R90), or the bytes of the frame (R70, R73). `now` is
0 where the event does not sample it (R90). -/
def encode : Instr → Encoded
  | .rst => .event { ew := packEventWord 0b10000#5 0 0 0, now := 0 }
  | .nop => .event { ew := packEventWord 0b00000#5 0 0 0, now := 0 }
  | .rxb b => .event { ew := packEventWord 0b00001#5 0 0 b, now := 0 }
  | .rxe now => .event { ew := packEventWord 0b00010#5 0 0 0, now := now }
  | .rxbe b now => .event { ew := packEventWord 0b00011#5 0 0 b, now := now }
  | .txb b => .event { ew := packEventWord 0b00100#5 0 b 0, now := 0 }
  | .txe t => .event { ew := packEventWord 0b01000#5 t 0 0, now := 0 }
  | .txbe b t => .event { ew := packEventWord 0b01100#5 t b 0, now := 0 }
  | .sensorTh f now => .frame (sensorBytes false f) now
  | .sensorT f now => .frame (sensorBytes true f) now
  | .generic typ payload now => .frame (wireBytes typ payload) now

/-- The bytes of a number, the least significant first: byte `k` is bits `8k+7..8k`. Log entry 10. -/
def bytesOfNat (n : Nat) (w : Nat) : List Byte :=
  (List.range n).map fun k => BitVec.ofNat 8 (w / 2 ^ (8 * k))

/-- The instruction the decoder reads from the bits `w` of a row of the opcode table. Up to 32 bits: the event word, which
is 29 bits, so a set bit above bit 28 is refused; of a word with a receive and a transmit event, the receive event. More
bits: the first bytes of a frame, byte 0 in bits 7:0. The masks of the frame rows are over the bytes of a valid frame
(R92), so here the header bytes that validity determines are not looked at. `now` is 0 (R90). Log entry 10. -/
def decodeTableWord (nbits w : Nat) : Option Instr :=
  if nbits ≤ 32 then
    if w < 2 ^ 29 then (eventsOf { ew := BitVec.ofNat 29 w, now := 0 }).head? else none
  else some (frameInstr Config.defaultParams (bytesOfNat (nbits / 8) w) 0)

end Sys2Proof
end

