-- ==== Sys2Proof/Machine/State.lean ====
section
/-! DEFINITION. The state of the block: every register of 10_state.md R20, the two buffers, and the inputs of the step
function (R35) that the host's step must find in the state. Plain data. -/

namespace Sys2Proof.Machine

/-- A buffer as the list of its written bytes: addresses strictly rising, one cell for each byte that holds a value. An
unlisted address holds NO value (10_state.md R36, R38). Log entry 4. -/
abbrev Mem := List Host.Cell

/-- The canonical form: addresses strictly rising. (No entry can equal what an unlisted address reads as: that is no
value.) -/
def Mem.wf : Mem → Bool
  | [] => true
  | [_] => true
  | c :: d :: m => decide (c.1 < d.1) && Mem.wf (d :: m)

/-- The working registers of the receive unit. -/
structure RxUnit where
  /-- `cnt`, 9 bits (R22). -/
  cnt : BitVec 9
  /-- `acc`, 8 bits (R23). -/
  acc : Byte
  /-- `buf[0..256]`, space RXBUF (R24, 20_memory.md R50). -/
  buf : Mem
  deriving DecidableEq, Repr

/-- The result registers of the receive unit (R25, R27). -/
structure ResultRegs where
  /-- `res_valid`. -/
  resValid : Bool
  /-- `res_err`, 4 bits. -/
  resErr : BitVec 4
  /-- `res_kind`, 2 bits. -/
  resKind : BitVec 2
  /-- `res_type`. -/
  resType : Byte
  /-- `res_chk`. -/
  resChk : Byte
  /-- `res_paylen`. -/
  resPaylen : Byte
  /-- `res_time`, TS_W bits: a number below `2 ^ TS_W`, which every step keeps (log entry 3). -/
  resTime : Ts
  /-- `s_addr`. -/
  sAddr : BitVec 16
  /-- `s_sub`. -/
  sSub : Bool
  /-- `s_neg`. -/
  sNeg : Bool
  /-- `s_batt_new`. -/
  sBattNew : Bool
  /-- `s_batt_low`. -/
  sBattLow : Bool
  /-- `s_tdig`. -/
  sTdig : BitVec 12
  /-- `s_temp`, two's complement. -/
  sTemp : BitVec 16
  /-- `s_hum_valid`. -/
  sHumValid : Bool
  /-- `s_hdig`. -/
  sHdig : BitVec 12
  /-- `s_hum`. -/
  sHum : BitVec 16
  deriving DecidableEq, Repr

/-- The working registers of the transmit unit (R29). -/
structure TxUnit where
  /-- `txcnt`, 8 bits. -/
  txcnt : Byte
  /-- `txacc`. -/
  txacc : Byte
  /-- `tx_ovf`. -/
  txOvf : Bool
  /-- `txbuf[0..252]`, space TXBUF. -/
  txbuf : Mem
  deriving DecidableEq, Repr

/-- The header registers of the transmit unit (R30). -/
structure HeaderRegs where
  /-- `txh_valid`. -/
  txhValid : Bool
  /-- `txh_err`, 4 bits. -/
  txhErr : BitVec 4
  /-- `txh_len`. -/
  txhLen : Byte
  /-- `txh_type`. -/
  txhType : Byte
  /-- `txh_chk`. -/
  txhChk : Byte
  /-- `txh_n`. -/
  txhN : Byte
  deriving DecidableEq, Repr

/-- The whole state. The last three fields are the model's own: the inputs of the step function (R35). -/
structure State where
  /-- The receive unit's working registers. -/
  rx : RxUnit
  /-- The result registers. -/
  res : ResultRegs
  /-- The transmit unit's working registers. -/
  tx : TxUnit
  /-- The header registers. -/
  txh : HeaderRegs
  /-- The build-time parameters (00_scope.md R6); no step writes them. Log entry 2. -/
  params : Config.Params
  /-- The inputs the environment has already decided on, next one first (30_encoding.md R90). Log entry 1. -/
  script : List Input
  /-- How many free inputs the environment has presented. Log entry 1. -/
  envIdx : Nat
  deriving DecidableEq, Repr

/-- Every result register 0 (R36). -/
def ResultRegs.zero : ResultRegs where
  resValid := false
  resErr := 0
  resKind := 0
  resType := 0
  resChk := 0
  resPaylen := 0
  resTime := 0
  sAddr := 0
  sSub := false
  sNeg := false
  sBattNew := false
  sBattLow := false
  sTdig := 0
  sTemp := 0
  sHumValid := false
  sHdig := 0
  sHum := 0

/-- Every header register 0 (R36). -/
def HeaderRegs.zero : HeaderRegs where
  txhValid := false
  txhErr := 0
  txhLen := 0
  txhType := 0
  txhChk := 0
  txhN := 0

/-- The state right after reset (R36), which is also the launch state (70_reset_and_hazards.md R231; log entry 5): all
registers 0, no byte of either buffer written, the default parameters, no input decided on. -/
def State.reset : State where
  rx := { cnt := 0, acc := 0, buf := [] }
  res := .zero
  tx := { txcnt := 0, txacc := 0, txOvf := false, txbuf := [] }
  txh := .zero
  params := Config.defaultParams
  script := []
  envIdx := 0

/-- Faults. NO STEP RAISES ONE: the block has no fault that stops it (60_exceptions.md R200). These are faults of whoever
reads a read port without a value to read (93_implementation_defined.md U1, U3). -/
inductive Fault where
  /-- Raised by `plData` alone: the payload window is closed, or the index is beyond the payload (R111). Safe: the hardware
  shows some unspecified byte. -/
  | payloadWindowClosed
  /-- Raised by `txrData` alone: the transmit window is closed, or the index is beyond the payload (R189). Safe, as above. -/
  | transmitWindowClosed
  /-- Raised by `plData` and `txrData` alone: the window is open and the byte was never written (U1). Safe: it holds in no
  state reached from reset. -/
  | unwrittenBufferByte
  deriving DecidableEq, Repr

/-- Refusals. -/
inductive Refusal where
  /-- Raised by an arm of `exec` without a meaning; there is none. Safe. -/
  | notModelled (mnemonic : String)
  deriving DecidableEq, Repr

end Sys2Proof.Machine
end

