-- ==== Sys2Proof/Machine/Ops.lean ====
section
/-! DEFINITION. The named operations over the buffers and the registers: reading and writing a buffer (20_memory.md R50 to
R52), taking a byte and ending a frame on either side (40_frame_rx.md R105, R106, R110, 42_sensor_decode.md R170,
43_frame_tx.md R186, R187), the error result (60_exceptions.md R206) and reset (70_reset_and_hazards.md R230). -/

namespace Sys2Proof.Machine

/-! ### Buffers -/

/-- The byte at an address, if one was ever written (R38). -/
def Mem.read? : Mem → Nat → Option Byte
  | [], _ => none
  | c :: m, a => if c.1 = a then some c.2 else Mem.read? m a

/-- Writing one byte, keeping the addresses strictly rising. -/
def Mem.write : Mem → Nat → Byte → Mem
  | [], a, b => [(a, b)]
  | c :: m, a, b =>
    if a < c.1 then (a, b) :: c :: m
    else if a = c.1 then (a, b) :: m
    else c :: Mem.write m a b

/-- The two address spaces of R50. -/
inductive Space where
  | rxbuf
  | txbuf
  deriving DecidableEq, Repr

/-- The number of bytes of a space (R50). -/
def Space.size : Space → Nat
  | .rxbuf => Config.bufBytes
  | .txbuf => Config.txBufBytes

/-- The buffer of a space. -/
def bufferOf (sp : Space) (s : State) : Mem :=
  match sp with
  | .rxbuf => s.rx.buf
  | .txbuf => s.tx.txbuf

/-- `MemRead(space, addr, 1)` (00_scope.md R8), `none` where no byte was written. -/
def memRead (sp : Space) (a : Nat) (s : State) : Option Byte := (bufferOf sp s).read? a

/-- `MemRead(space, addr, n)`: the `n` bytes from `addr` on, lowest index first (R8). -/
def memReadN (sp : Space) (a n : Nat) (s : State) : List (Option Byte) :=
  (List.range n).map fun k => memRead sp (a + k) s

/-- `MemWrite(space, addr, 1, b)` (R8). -/
def memWrite (sp : Space) (a : Nat) (b : Byte) (s : State) : State :=
  match sp with
  | .rxbuf => { s with rx := { s.rx with buf := s.rx.buf.write a b } }
  | .txbuf => { s with tx := { s.tx with txbuf := s.tx.txbuf.write a b } }

/-- The byte of a buffer an operation uses. Every index an operation uses was written since the last frame end in a state
reached from reset (R38); elsewhere the free value stands. Log entry 4. -/
def bufByte (m : Mem) (i : Nat) : Byte := (m.read? i).getD (Config.absentByte i)

/-- The first `n` bytes of a buffer. -/
def bufBytes (m : Mem) (n : Nat) : List Byte := (List.range n).map (bufByte m)

/-! ### The receive unit -/

/-- `RXB(b)` (R105): all three lines use `cnt` from before the step; the count saturates at 258. -/
def rxByte (b : Byte) (s : State) : State :=
  let s1 := if s.rx.cnt.toNat < Config.bufBytes then memWrite .rxbuf s.rx.cnt.toNat b s else s
  { s1 with
    rx := { s1.rx with
      acc := if s.rx.cnt.toNat ≥ 4 then checksumStep s.rx.acc b else s.rx.acc
      cnt := BitVec.ofNat 9 (min (s.rx.cnt.toNat + 1) Config.cntSat) } }

/-- The bytes of the frame in the buffer, `buf[0 .. cnt-1]` (R106). -/
def heldFrame (s : State) : List Byte := bufBytes s.rx.buf s.rx.cnt.toNat

/-- Steps 1 and 2 of `RXE(now)` (R106): the frame-level checks on the registers, in order, then the classification. The
length compare is between integers, so that a saturated count never equals. -/
def rxResult (now : Ts) (s : State) : Result Message :=
  if s.rx.cnt.toNat < 4 then .error .frameTooShort
  else if bufByte s.rx.buf 0 ≠ Config.startMarker then .error .badStartByte
  else if (bufByte s.rx.buf 1).toNat + 2 ≠ s.rx.cnt.toNat then .error .lengthMismatch
  else if bufByte s.rx.buf 3 ≠ s.rx.acc then .error .checksumMismatch
  else classifyValid s.params (heldFrame s) now

/-- The error image of the result registers, the counterpart of trap entry: the code, kind `NONE`, every other register the
absence encoding 0 (R26, R110, R206). Nothing is saved for a handler, and there is no return operation (R206, R207). -/
def errorRegs (e : ErrorCode) : ResultRegs :=
  { ResultRegs.zero with resValid := true, resErr := e.code }

/-- The registers of R25 for a received frame of the given kind; the sensor registers 0 (R110). -/
def frameRegs (kind : BitVec 2) (f : Frame) : ResultRegs :=
  { ResultRegs.zero with
    resValid := true
    resKind := kind
    resType := f.typ
    resChk := f.checksum
    resPaylen := BitVec.ofNat 8 f.payload.length
    resTime := f.receivedAt }

/-- The image of a sensor reading (R170): kind 2; an absent humidity is the absence encoding 0 (R26, R162). -/
def sensorRegs (r : SensorReading) : ResultRegs :=
  { frameRegs 2 r.frame with
    sAddr := r.addr
    sSub := r.sub
    sNeg := r.neg
    sBattNew := r.battNew
    sBattLow := r.battLow
    sTdig := packDigits r.tdig
    sTemp := tempRegister r.neg (digitsValue r.tdig)
    sHumValid := r.hum.isSome
    sHdig := match r.hum with
      | some h => packDigits h.digits
      | none => 0
    sHum := match r.hum with
      | some h => BitVec.ofNat 16 h.value
      | none => 0 }

/-- The register image of a result: `latch(r)` (R110, R170), kind 1 for a generic frame. -/
def resultRegs : Result Message → ResultRegs
  | .error e => errorRegs e
  | .ok (.generic f) => frameRegs 1 f
  | .ok (.sensor r) => sensorRegs r

/-- Step 3 of `RXE` (R106): latch the whole result, get ready for the next frame. `buf` is not written. -/
def endFrame (r : Result Message) (s : State) : State :=
  { s with res := resultRegs r, rx := { s.rx with cnt := 0, acc := 0 } }

/-- `RXE(now)` (R106). -/
def rxEnd (now : Ts) (s : State) : State := endFrame (rxResult now s) s

/-- The bytes of a whole frame written to RXBUF at their indices from `i` on, each as `RXB` writes it (R51). -/
def storeFrom (i : Nat) (raw : List Byte) (s : State) : State :=
  match raw with
  | [] => s
  | b :: rest => storeFrom (i + 1) rest (if i < Config.bufBytes then memWrite .rxbuf i b s else s)

/-- The frame `raw` received whole, its class already known, with the class's constructor result (R87, R130). Log entry 9. -/
def receiveFrame (raw : List Byte) (r : Result Message) (s : State) : State :=
  endFrame r (storeFrom 0 raw s)

/-! ### The transmit unit -/

/-- `TXB(b)` (R186): a byte beyond the 253rd is dropped and sets `tx_ovf`. -/
def txByte (b : Byte) (s : State) : State :=
  if s.tx.txcnt.toNat < Config.txBufBytes then
    let s1 := memWrite .txbuf s.tx.txcnt.toNat b s
    { s1 with tx := { s1.tx with txacc := checksumStep s.tx.txacc b, txcnt := s.tx.txcnt + 1 } }
  else { s with tx := { s.tx with txOvf := true } }

/-- The header registers `TXE(t)` writes (R187): the error `PayloadTooLong` if a byte was dropped, else the header. -/
def headerRegs (t : Byte) (u : TxUnit) : HeaderRegs :=
  if u.txOvf then { HeaderRegs.zero with txhErr := ErrorCode.payloadTooLong.code }
  else
    { txhValid := true
      txhErr := 0
      txhLen := u.txcnt + 2
      txhType := t
      txhChk := u.txacc
      txhN := u.txcnt }

/-- `TXE(t)` (R187). `txbuf` is not written. -/
def txEnd (t : Byte) (s : State) : State :=
  { s with txh := headerRegs t s.tx, tx := { s.tx with txcnt := 0, txacc := 0, txOvf := false } }

/-! ### Reset -/

/-- The registers as `RST` leaves them (R230); neither buffer is written. -/
def resetRegs (s : State) : State :=
  { s with
    rx := { s.rx with cnt := 0, acc := 0 }
    res := ResultRegs.zero
    tx := { s.tx with txcnt := 0, txacc := 0, txOvf := false }
    txh := HeaderRegs.zero }

end Sys2Proof.Machine
end

