-- ==== Sys2Proof/Machine/Classes.lean ====
section
/-! DEFINITION. The meanings of the frame classes `SENSOR_TH`, `SENSOR_T`, `GENERIC` (30_encoding.md R87): the reception of
the whole frame with the constructor of its class as the result (41_dispatch.md R130). Log entry 9. -/

namespace Sys2Proof.Machine

/-- `SENSOR_TH`: `decode_sensor` of a frame with `sub` = 0, so with humidity (R153). -/
def execSensorTh (f : SensorFrame) (now : Ts) (s : State) : Host.Outcome State Fault Refusal :=
  .next (receiveFrame (sensorBytes false f) (decodeSensor s.params (sensorBytes false f) now) s)

/-- `SENSOR_T`: `decode_sensor` of a frame with `sub` = 1, so without humidity (R153). -/
def execSensorT (f : SensorFrame) (now : Ts) (s : State) : Host.Outcome State Fault Refusal :=
  .next (receiveFrame (sensorBytes true f) (decodeSensor s.params (sensorBytes true f) now) s)

/-- The constructor of the generic fallback: `Generic(from_bytes(raw, now))` (R130). -/
def genericResult (raw : List Byte) (now : Ts) : Result Message :=
  match fromBytes raw now with
  | .error e => .error e
  | .ok f => .ok (.generic f)

/-- `GENERIC` (R134). -/
def execGeneric (typ : Byte) (payload : List Byte) (now : Ts) (s : State) : Host.Outcome State Fault Refusal :=
  .next (receiveFrame (wireBytes typ payload) (genericResult (wireBytes typ payload) now) s)

end Sys2Proof.Machine
end

