-- ==== Sys2Proof/Machine/Control.lean ====
section
/-! DEFINITION. The meanings of `RST` (70_reset_and_hazards.md R230) and `NOP` (00_scope.md R11). -/

namespace Sys2Proof.Machine

/-- `RST` (R230). -/
def execRst (s : State) : Host.Outcome State Fault Refusal := .next (resetRegs s)

/-- `NOP`: a step whose five strobes are all 0 changes nothing (R11). -/
def execNop (s : State) : Host.Outcome State Fault Refusal := .next s

end Sys2Proof.Machine
end

