-- ==== Sys2Proof/Machine/Receive.lean ====
section
/-! DEFINITION. The meanings of the receive events `RXB`, `RXE`, `RXBE` (40_frame_rx.md R105 to R107). -/

namespace Sys2Proof.Machine

/-- `RXB b` (R105). -/
def execRxb (b : Byte) (s : State) : Host.Outcome State Fault Refusal := .next (rxByte b s)

/-- `RXE` (R106): an error is the result; the step always completes. -/
def execRxe (now : Ts) (s : State) : Host.Outcome State Fault Refusal := .next (rxEnd now s)

/-- `RXBE b` (R107): `RXB(b)` and then `RXE(now)` in one step. -/
def execRxbe (b : Byte) (now : Ts) (s : State) : Host.Outcome State Fault Refusal :=
  .next (rxEnd now (rxByte b s))

end Sys2Proof.Machine
end

