-- ==== Sys2Proof/Machine/Transmit.lean ====
section
/-! DEFINITION. The meanings of the transmit events `TXB`, `TXE`, `TXBE` (43_frame_tx.md R186 to R188). -/

namespace Sys2Proof.Machine

/-- `TXB b` (R186). -/
def execTxb (b : Byte) (s : State) : Host.Outcome State Fault Refusal := .next (txByte b s)

/-- `TXE t` (R187). -/
def execTxe (t : Byte) (s : State) : Host.Outcome State Fault Refusal := .next (txEnd t s)

/-- `TXBE b t` (R188): `TXB(b)` and then `TXE(t)` in one step. -/
def execTxbe (b t : Byte) (s : State) : Host.Outcome State Fault Refusal :=
  .next (txEnd t (txByte b s))

end Sys2Proof.Machine
end

