-- ==== Sys2Proof/Machine/Dispatch.lean ====
section
/-! DEFINITION. One arm for each constructor of `Instr`, each a direct call of its meaning. -/

namespace Sys2Proof.Machine

def exec (i : Instr) (s : State) : Host.Outcome State Fault Refusal :=
  match i with
  | .rst => Sys2Proof.Machine.execRst s
  | .nop => Sys2Proof.Machine.execNop s
  | .rxb b => Sys2Proof.Machine.execRxb b s
  | .rxe now => Sys2Proof.Machine.execRxe now s
  | .rxbe b now => Sys2Proof.Machine.execRxbe b now s
  | .txb b => Sys2Proof.Machine.execTxb b s
  | .txe t => Sys2Proof.Machine.execTxe t s
  | .txbe b t => Sys2Proof.Machine.execTxbe b t s
  | .sensorTh f now => Sys2Proof.Machine.execSensorTh f now s
  | .sensorT f now => Sys2Proof.Machine.execSensorT f now s
  | .generic typ payload now => Sys2Proof.Machine.execGeneric typ payload now s

end Sys2Proof.Machine
end

