-- ==== Sys2Proof/Machine/Run.lean ====
section
/-! DEFINITION. What one step is made of: sampling the input (00_scope.md R11), and performing its events one after the
other (30_encoding.md R82). Placing an encoded instruction where the next step samples it. -/

namespace Sys2Proof.Machine

/-- The instructions performed in order, stopping at the first that does not answer a next state (none does so, R200). -/
def runInstrs : List Instr → State → Host.Outcome State Fault Refusal
  | [], s => .next s
  | i :: is, s =>
    match exec i s with
    | .next t => runInstrs is t
    | .fault r => .fault r
    | .refused r => .refused r

/-- The input this step samples, and the state without it: the script's next input, and where the script is at its end a
free input (R35). Log entry 1. -/
def sample (s : State) : Input × State :=
  match s.script with
  | inp :: rest => (inp, { s with script := rest })
  | [] => (Config.envInput s.envIdx, { s with envIdx := s.envIdx + 1 })

/-- `step(state, event word, now)` of R11: the events of the input at the ports, in one step. -/
def clock (inp : Input) (s : State) : Host.Outcome State Fault Refusal :=
  runInstrs (eventsOf (atPorts s.params inp)) s

/-- The state that samples `inp` next, in place of the input it would have sampled. -/
def withInput (inp : Input) (s : State) : State := { s with script := inp :: s.script.drop 1 }

/-- The state that holds the received bytes `raw`, not yet ended, and samples `RXE` with `now` next (R106). -/
def withHeldFrame (raw : List Byte) (now : Ts) (s : State) : State :=
  let s1 := storeFrom 0 raw s
  withInput { ew := packEventWord 0b00010#5 0 0 0, now := now }
    { s1 with rx := { s1.rx with
        cnt := BitVec.ofNat 9 (min raw.length Config.cntSat)
        acc := checksum (raw.drop 4) } }

/-- The state whose next step performs the encoded instruction. -/
def withEncoded (e : Encoded) (s : State) : State :=
  match e with
  | .event inp => withInput inp s
  | .frame raw now => withHeldFrame raw now s

/-- The state whose next step performs the instruction with the table's bits `w`: of a row of events the whole word, so that
a word with events of both groups keeps both; of a frame row the frame of the instruction `decodeTableWord` reads, which
is a valid one. Where the decoder refuses, the state as it is. Log entry 10. -/
def placeTableWord (nbits w : Nat) (s : State) : State :=
  if nbits ≤ 32 then
    if w < 2 ^ 29 then withInput { ew := BitVec.ofNat 29 w, now := 0 } s else s
  else
    match decodeTableWord nbits w with
    | none => s
    | some i => withEncoded (encode i) s

end Sys2Proof.Machine
end

