-- ==== Sys2Proof/Machine/Step.lean ====
section
/-! DEFINITION. One step of the block (00_scope.md R11), and the host's way of placing an instruction. -/

namespace Sys2Proof.Machine

/-- One step: sample one input, perform its events (R11). -/
def step (s : State) : Host.Outcome State Fault Refusal := clock (sample s).1 (sample s).2

/-- `s` with the instruction of the table's bits `w` where the next step finds it. Log entry 10. -/
def State.withFetchWord (s : State) (nbits w : Nat) : State := placeTableWord nbits w s

end Sys2Proof.Machine
end

