-- ==== Sys2Proof/Machine/Accessors.lean ====
section
/-! DEFINITION. The derived accessors of a sensor result (42_sensor_decode.md R166 to R168). They are software's rendering
of the registers; no register holds them. Log entry 15. -/

namespace Sys2Proof.Machine

/-- A hexadecimal digit in lower case (R166). -/
def hexDigit (n : Nibble) : Char :=
  if n.toNat < 10 then Char.ofNat (48 + n.toNat) else Char.ofNat (87 + n.toNat)

/-- Digit `k` of the address is `s_addr[15-4k : 12-4k]`, leading zeros kept (R166). -/
def deviceIdDigits (addr : BitVec 16) : List Char :=
  [hexDigit (addr.extractLsb' 12 4), hexDigit (addr.extractLsb' 8 4), hexDigit (addr.extractLsb' 4 4),
   hexDigit (addr.extractLsb' 0 4)]

/-- `device_id` (R166). -/
def deviceId (addr : BitVec 16) : String := String.ofList (deviceIdDigits addr)

/-- `MODEL`: label A when humidity is absent, label B when it is present (R167). -/
def modelLabel (s : State) : String := if s.res.sHumValid then s.params.labelB else s.params.labelA

/-- `sensor_name()`: `<MODEL>_<address>` (R167). -/
def sensorName (s : State) : String := modelLabel s ++ "_" ++ deviceId s.res.sAddr

/-- `is_battery_low()` (R168). -/
def isBatteryLow (s : State) : Bool := s.res.sBattLow

/-- `has_new_battery()` (R168). -/
def hasNewBattery (s : State) : Bool := s.res.sBattNew

/-- The reported temperature in tenths of a degree: `s_temp` as a signed integer (R159, R168). -/
def reportedTemperature (s : State) : Int := s.res.sTemp.toInt

/-- The reported humidity in tenths of a percent, "only when present" (R168). -/
def reportedHumidity (s : State) : Option Nat := if s.res.sHumValid then some s.res.sHum.toNat else none

end Sys2Proof.Machine
end

