-- ==== Sys2Proof/Machine/Flags.lean ====
section
/-! DEFINITION. The single-bit status outputs that are not registers (10_state.md R28, R31). There are no condition codes,
and no operation reads any of these (R28). -/

namespace Sys2Proof.Machine

/-- `rx_busy`: `cnt != 0` (R28). -/
def rxBusy (s : State) : Bool := s.rx.cnt != 0

/-- `rx_ovf`: `cnt == 258` (R28). -/
def rxOvf (s : State) : Bool := s.rx.cnt.toNat == Config.cntSat

/-- `res_strobe`: `rx_end and not rst` of the current event word (R28). -/
def resStrobe (ew : EventWord) : Bool := ewRxEnd ew && !ewRst ew

/-- `tx_busy`: `txcnt != 0 or tx_ovf` (R31). -/
def txBusy (s : State) : Bool := s.tx.txcnt != 0 || s.tx.txOvf

/-- `tx_strobe`: `tx_end and not rst` of the current event word (R31). -/
def txStrobe (ew : EventWord) : Bool := ewTxEnd ew && !ewRst ew

end Sys2Proof.Machine
end

