-- ==== Sys2Proof/Machine/Ports.lean ====
section
/-! DEFINITION. The output side: the windows and the two read ports (40_frame_rx.md R111, 43_frame_tx.md R189,
70_reset_and_hazards.md R235 to R237), and all output ports (30_encoding.md R85). None of them changes the state. -/

namespace Sys2Proof.Machine

/-- The payload window is open: the last frame end gave `res_err = 0`, and no `RXB` came after it (R111, R236). The first
`RXB` after a frame end makes `cnt` non-zero, and a reset clears `res_valid`. -/
def payloadOpen (s : State) : Bool := s.res.resValid && s.res.resErr == 0 && s.rx.cnt == 0

/-- The transmit window is open: the last `TXE` gave `txh_valid = 1`, and no `TXB` came after it (R189, R237). The first
`TXB` after a `TXE` makes `txcnt` non-zero. -/
def transmitOpen (s : State) : Bool := s.txh.txhValid && s.tx.txcnt == 0 && !s.tx.txOvf

/-- The read port `pl_data` at `pl_idx`: `buf[4 + pl_idx]` in the payload window (R85, R111); elsewhere no value (R38). -/
def plData (idx : Byte) (s : State) : Except Fault Byte :=
  if payloadOpen s && decide (idx.toNat < s.res.resPaylen.toNat) then
    match memRead .rxbuf (4 + idx.toNat) s with
    | some b => .ok b
    | none => .error .unwrittenBufferByte
  else .error .payloadWindowClosed

/-- The read port `txr_data` at `txr_idx`: `txbuf[txr_idx]` in the transmit window (R85, R189); elsewhere no value (R38). -/
def txrData (idx : Byte) (s : State) : Except Fault Byte :=
  if transmitOpen s && decide (idx.toNat < s.txh.txhN.toNat) then
    match memRead .txbuf idx.toNat s with
    | some b => .ok b
    | none => .error .unwrittenBufferByte
  else .error .transmitWindowClosed

/-- The bytes to put on the wire: `[0x81, txh_len, txh_type, txh_chk] ++ txbuf[0 .. txh_n-1]` (R189). -/
def bytesToSend (s : State) : List Byte :=
  [Config.startMarker, s.txh.txhLen, s.txh.txhType, s.txh.txhChk] ++ bufBytes s.tx.txbuf s.txh.txhN.toNat

/-- The payload of the frame just ended: `buf[4 .. 4+res_paylen-1]` (10_state.md R25). -/
def payloadBytes (s : State) : List Byte :=
  (List.range s.res.resPaylen.toNat).map fun i => bufByte s.rx.buf (4 + i)

/-- Every output port but the two read ports (R85). -/
structure Outputs where
  res : ResultRegs
  resStrobe : Bool
  rxBusy : Bool
  rxOvf : Bool
  txh : HeaderRegs
  txStrobe : Bool
  txBusy : Bool
  deriving DecidableEq, Repr

/-- The outputs driven during a step that starts in `s` and samples `ew`: the registers show what earlier steps wrote
(70_reset_and_hazards.md R238), the strobes follow the event word (R28, R31). -/
def outputs (s : State) (ew : EventWord) : Outputs where
  res := s.res
  resStrobe := resStrobe ew
  rxBusy := rxBusy s
  rxOvf := rxOvf s
  txh := s.txh
  txStrobe := txStrobe ew
  txBusy := txBusy s

end Sys2Proof.Machine
end

