-- ==== Sys2Proof/Machine/Script.lean ====
section
/-! DEFINITION. Event scripts and their macros (30_encoding.md R90, R91). -/

namespace Sys2Proof.Machine

/-- `RXF hh ... hh @t` (R91): the last byte carries the end; with no bytes the single line `RXE @t`. -/
def rxf : List Byte → Ts → List Instr
  | [], now => [.rxe now]
  | [b], now => [.rxbe b now]
  | b :: c :: bs, now => .rxb b :: rxf (c :: bs) now

/-- `RXFS hh ... hh @t` (R91): the end in a step of its own. -/
def rxfs (bs : List Byte) (now : Ts) : List Instr := bs.map .rxb ++ [.rxe now]

/-- `TXF 0xtt hh ... hh` (R91). -/
def txf (t : Byte) (payload : List Byte) : List Instr := payload.map .txb ++ [.txe t]

/-- A script line with one event: the canonical input (R90). A frame class is no line of a script. -/
def lineOf (i : Instr) : Option Input :=
  match encode i with
  | .event inp => some inp
  | .frame _ _ => none

/-- The line `A || B`: both events in one step, the bitwise OR of the two words (R90). `B`, a transmit event, has no `now`. -/
def joinLines (a b : Input) : Input := { ew := a.ew ||| b.ew, now := a.now }

/-- The script with one line for each event. -/
def scriptOf (is : List Instr) : List Input := is.filterMap lineOf

end Sys2Proof.Machine
end

