-- ==== Sys2Proof/Safety.lean ====
section
/-! DEFINITION. What counts as a safe state, and the terms in which claims about runs are stated: the invariant of the
registers and buffers (10_state.md R22 to R30, R38), and the history of bytes a state reflects (R37). -/

namespace Sys2Proof.Machine

/-! ### The state invariant -/

/-- A buffer lists its cells in canonical form and none outside its space of `n` bytes (20_memory.md R50). -/
structure BufferWf (n : Nat) (m : Mem) : Prop where
  canonical : m.wf = true
  inside : ∀ a, n ≤ a → m.read? a = none

/-- The sensor registers hold the absence encoding (10_state.md R26). -/
structure SensorRegsAbsent (r : ResultRegs) : Prop where
  sAddr : r.sAddr = 0
  sSub : r.sSub = false
  sNeg : r.sNeg = false
  sBattNew : r.sBattNew = false
  sBattLow : r.sBattLow = false
  sTdig : r.sTdig = 0
  sTemp : r.sTemp = 0
  sHumValid : r.sHumValid = false
  sHdig : r.sHdig = 0
  sHum : r.sHum = 0

/-- The result registers are the image of some result (R25 to R27, 30_encoding.md R86, R88). -/
structure ResultLegal (r : ResultRegs) : Prop where
  /-- Before the first frame end since reset every register is 0 (R36). -/
  beforeFirst : r.resValid = false → r = ResultRegs.zero
  /-- `res_err = 0` exactly when `res_kind != 0` (R25). -/
  errIffNone : r.resValid = true → (r.resErr = 0 ↔ r.resKind ≠ 0)
  /-- `res_kind` = 3 is never produced (R25). -/
  kindLegal : r.resKind ≠ 3
  /-- Codes 5, 7, 8 and 9 to 15 are never latched (R88, R201). -/
  errLegal : r.resErr = 0 ∨ r.resErr = 1 ∨ r.resErr = 2 ∨ r.resErr = 3 ∨ r.resErr = 4 ∨ r.resErr = 6
  /-- An error carries its code and nothing else (60_exceptions.md R201, R206). -/
  errAbsence : r.resErr ≠ 0 → r = { ResultRegs.zero with resValid := true, resErr := r.resErr }
  /-- The sensor registers are 0 unless the kind is `SENSOR` (R27). -/
  genericAbsence : r.resKind ≠ 2 → SensorRegsAbsent r
  /-- The payload is 0 to 253 bytes (R25). -/
  paylenLe : r.resPaylen.toNat ≤ 253
  /-- `s_hum_valid = not s_sub` (R27). -/
  humIffSub : r.resKind = 2 → r.sHumValid = !r.sSub
  /-- -999 to 999 tenths of a degree (R27). -/
  tempRange : -999 ≤ r.sTemp.toInt ∧ r.sTemp.toInt ≤ 999
  /-- 0 to 999 tenths of a percent (R27). -/
  humRange : r.sHum.toNat ≤ 999
  /-- An absent humidity is the absence encoding (R26, R27). -/
  humAbsence : r.sHumValid = false → r.sHdig = 0 ∧ r.sHum = 0

/-- The header registers are the image of some built frame, of its failure, or of reset (R30). -/
structure HeaderLegal (r : HeaderRegs) : Prop where
  /-- Valid: no error, and the length byte is `n + 2` (R30). -/
  built : r.txhValid = true → r.txhErr = 0 ∧ r.txhLen.toNat = r.txhN.toNat + 2 ∧ r.txhN.toNat ≤ 253
  /-- Not valid: no error or `PayloadTooLong`, every other register 0 (R30). -/
  notBuilt : r.txhValid = false → (r.txhErr = 0 ∨ r.txhErr = 8) ∧ r = { HeaderRegs.zero with txhErr := r.txhErr }

/-- The invariant of the block's state. -/
structure Inv (s : State) : Prop where
  rxMem : BufferWf Config.bufBytes s.rx.buf
  txMem : BufferWf Config.txBufBytes s.tx.txbuf
  /-- Range of `cnt` (R22). -/
  cntLe : s.rx.cnt.toNat ≤ Config.cntSat
  /-- Every byte of the frame in progress that fits the buffer was written (R24, R38). -/
  rxWritten : ∀ i, i < s.rx.cnt.toNat → i < Config.bufBytes → (s.rx.buf.read? i).isSome = true
  /-- `acc` is the checksum of the bytes at index 4 and up (R23). Bytes beyond the buffer are counted in `acc` only. -/
  accSum : s.rx.cnt.toNat ≤ Config.bufBytes → s.rx.acc = checksum ((heldFrame s).drop 4)
  /-- Range of `txcnt` (R29). -/
  txcntLe : s.tx.txcnt.toNat ≤ Config.txBufBytes
  /-- `tx_ovf` is set by a byte that arrives when `txcnt` = 253 (R29). -/
  ovfFull : s.tx.txOvf = true → s.tx.txcnt.toNat = Config.txBufBytes
  /-- Every accepted payload byte was written (R29). -/
  txWritten : ∀ i, i < s.tx.txcnt.toNat → (s.tx.txbuf.read? i).isSome = true
  /-- `txacc` is the checksum of the accepted bytes (R29). -/
  txaccSum : s.tx.txacc = checksum (bufBytes s.tx.txbuf s.tx.txcnt.toNat)
  resLegal : ResultLegal s.res
  /-- `res_time` is `TS_W` bits wide (R25, 30_encoding.md R83). -/
  timeFits : fitsTs s.params s.res.resTime = true
  txhLegal : HeaderLegal s.txh
  /-- In the payload window every payload byte is there, and the payload has the latched checksum (40_frame_rx.md R111). -/
  payloadWindow : payloadOpen s = true →
    (∀ i, i < s.res.resPaylen.toNat → (s.rx.buf.read? (4 + i)).isSome = true) ∧
    checksum (payloadBytes s) = s.res.resChk
  /-- In the transmit window every payload byte is there, and the payload has the header's checksum (43_frame_tx.md R189). -/
  transmitWindow : transmitOpen s = true →
    (∀ i, i < s.txh.txhN.toNat → (s.tx.txbuf.read? i).isSome = true) ∧
    checksum (bufBytes s.tx.txbuf s.txh.txhN.toNat) = s.txh.txhChk

/-! ### The history of a run -/

/-- What the environment has presented, as far as any register can depend on it (R37): the bytes since the last frame end
on either side, and the last frame ended and the last frame built since reset. -/
structure History where
  rxBytes : List Byte
  rxLast : Option (List Byte × Ts)
  txBytes : List Byte
  txLast : Option (Byte × List Byte)
  deriving DecidableEq, Repr

/-- The history right after reset. -/
def History.empty : History := { rxBytes := [], rxLast := none, txBytes := [], txLast := none }

/-- The history after one more instruction (R105 to R107, R186 to R188, R230). -/
def historyAfter (h : History) : Instr → History
  | .rst => History.empty
  | .nop => h
  | .rxb b => { h with rxBytes := h.rxBytes ++ [b] }
  | .rxe now => { h with rxBytes := [], rxLast := some (h.rxBytes, now) }
  | .rxbe b now => { h with rxBytes := [], rxLast := some (h.rxBytes ++ [b], now) }
  | .txb b => { h with txBytes := h.txBytes ++ [b] }
  | .txe t => { h with txBytes := [], txLast := some (t, h.txBytes) }
  | .txbe b t => { h with txBytes := [], txLast := some (t, h.txBytes ++ [b]) }
  | .sensorTh f now => { h with rxBytes := [], rxLast := some (sensorBytes false f, now) }
  | .sensorT f now => { h with rxBytes := [], rxLast := some (sensorBytes true f, now) }
  | .generic typ payload now => { h with rxBytes := [], rxLast := some (wireBytes typ payload, now) }

/-- A buffer of `n` bytes holds the bytes of `bs` that fit it. -/
def HoldsBytes (n : Nat) (m : Mem) (bs : List Byte) : Prop :=
  ∀ i, i < n → i < bs.length → m.read? i = bs[i]?

/-- The receive unit has taken exactly the bytes `raw` since the last frame end or reset (R37 (i) to (iii)). -/
structure RxTracks (raw : List Byte) (s : State) : Prop where
  cnt : s.rx.cnt.toNat = min raw.length 258
  acc : s.rx.acc = checksum (raw.drop 4)
  buf : HoldsBytes 257 s.rx.buf raw

/-- The transmit unit has been offered exactly the bytes `bs` since the last `TXE` or reset (R37 (iv)). -/
structure TxTracks (bs : List Byte) (s : State) : Prop where
  txcnt : s.tx.txcnt.toNat = min bs.length 253
  txOvf : s.tx.txOvf = decide (253 < bs.length)
  txacc : s.tx.txacc = checksum (bs.take 253)
  txbuf : HoldsBytes 253 s.tx.txbuf bs

/-- The register image of `from_type_and_payload(type, payload)` (R30). -/
def builtRegs (t : Byte) (payload : List Byte) : HeaderRegs :=
  match fromTypeAndPayload t payload with
  | .error e => { HeaderRegs.zero with txhErr := e.code }
  | .ok f =>
    { txhValid := true
      txhErr := 0
      txhLen := BitVec.ofNat 8 (f.payload.length + 2)
      txhType := f.typ
      txhChk := f.checksum
      txhN := BitVec.ofNat 8 f.payload.length }

/-- The result registers after the last frame end of a history (R25, R37 (v)). -/
def resultOf (p : Config.Params) : Option (List Byte × Ts) → ResultRegs
  | none => ResultRegs.zero
  | some x => resultRegs (classify p x.1 x.2)

/-- The header registers after the last frame built in a history (R30, R37 (v)). -/
def headerOf : Option (Byte × List Byte) → HeaderRegs
  | none => HeaderRegs.zero
  | some x => builtRegs x.1 x.2

/-- Every register of the state is what the functional layer gives on the history, and the buffers hold what the read
ports may show (R37, 40_frame_rx.md R111, 43_frame_tx.md R189). -/
structure Reflects (h : History) (s : State) : Prop where
  rx : RxTracks h.rxBytes s
  tx : TxTracks h.txBytes s
  res : s.res = resultOf s.params h.rxLast
  txh : s.txh = headerOf h.txLast
  /-- Until the next byte comes in, RXBUF holds the frame just ended (10_state.md R24). -/
  rxHeld : h.rxBytes = [] → ∀ x, h.rxLast = some x → HoldsBytes 257 s.rx.buf x.1
  /-- Until the next byte comes in, TXBUF holds the payload just built (R29, R189). -/
  txHeld : h.txBytes = [] → ∀ x, h.txLast = some x → HoldsBytes 253 s.tx.txbuf x.2

/-! ### Kinds of events -/

/-- The instruction leaves the receive unit as it is, or takes one byte: what may stand inside a frame (R108). -/
def insideFrame : Instr → Bool
  | .nop => true
  | .rxb _ => true
  | .txb _ => true
  | .txe _ => true
  | .txbe _ _ => true
  | .rst => false
  | .rxe _ => false
  | .rxbe _ _ => false
  | .sensorTh _ _ => false
  | .sensorT _ _ => false
  | .generic _ _ _ => false

/-- The byte an `RXB` carries. -/
def receivedByte : Instr → Option Byte
  | .rxb b => some b
  | _ => none

/-- What may stand between the payload bytes of a frame to send: `NOP`, `TXB` and every receive event (R190). -/
def insidePayload : Instr → Bool
  | .nop => true
  | .rxb _ => true
  | .rxe _ => true
  | .rxbe _ _ => true
  | .txb _ => true
  | .sensorTh _ _ => true
  | .sensorT _ _ => true
  | .generic _ _ _ => true
  | .rst => false
  | .txe _ => false
  | .txbe _ _ => false

/-- The byte a `TXB` carries. -/
def offeredByte : Instr → Option Byte
  | .txb b => some b
  | _ => none

/-- A receive event or a frame class: it acts on the receive unit alone (20_memory.md R60). -/
def isReceive : Instr → Bool
  | .rxb _ => true
  | .rxe _ => true
  | .rxbe _ _ => true
  | .sensorTh _ _ => true
  | .sensorT _ _ => true
  | .generic _ _ _ => true
  | .rst => false
  | .nop => false
  | .txb _ => false
  | .txe _ => false
  | .txbe _ _ => false

/-- A transmit event: it acts on the transmit unit alone (20_memory.md R60). -/
def isTransmit : Instr → Bool
  | .txb _ => true
  | .txe _ => true
  | .txbe _ _ => true
  | .rst => false
  | .nop => false
  | .rxb _ => false
  | .rxe _ => false
  | .rxbe _ _ => false
  | .sensorTh _ _ => false
  | .sensorT _ _ => false
  | .generic _ _ _ => false

/-- The event ends a received frame: `RXE`, `RXBE`, or a frame class. -/
def endsFrame : Instr → Bool
  | .rxe _ => true
  | .rxbe _ _ => true
  | .sensorTh _ _ => true
  | .sensorT _ _ => true
  | .generic _ _ _ => true
  | .rst => false
  | .nop => false
  | .rxb _ => false
  | .txb _ => false
  | .txe _ => false
  | .txbe _ _ => false

end Sys2Proof.Machine
end

