-- ==== Sys2Proof/Certificates/Slice0/Obligations.lean ====
section
/-! DEFINITION. The statements about FHZ-FPD, from the numbered rules of spec/. -/

open Sys2Proof
open Sys2Proof.Machine

/-! ### Encodings -/

/-- Event words written in the tables of 30_encoding.md R90 and of the programs P1, P4, P6 of 95_test_vectors.md, and the
events they denote, at time 7. -/
def Obligations.KnownEventWordsDecode : Prop :=
  eventsOf { ew := 0x10000000#29, now := 7 } = [.rst] ∧
  eventsOf { ew := 0x00000000#29, now := 7 } = [.nop] ∧
  eventsOf { ew := 0x010000c9#29, now := 7 } = [.rxb 0xc9] ∧
  eventsOf { ew := 0x02000000#29, now := 7 } = [.rxe 7] ∧
  eventsOf { ew := 0x03000060#29, now := 7 } = [.rxbe 0x60 7] ∧
  eventsOf { ew := 0x04001f00#29, now := 7 } = [.txb 0x1f] ∧
  eventsOf { ew := 0x08c90000#29, now := 7 } = [.txe 0xc9] ∧
  eventsOf { ew := 0x0c107f00#29, now := 7 } = [.txbe 0x7f 0x10] ∧
  eventsOf { ew := 0x05007f81#29, now := 7 } = [.rxb 0x81, .txb 0x7f] ∧
  eventsOf { ew := 0x0f200100#29, now := 7 } = [.rxbe 0x00 7, .txbe 0x01 0x20] ∧
  eventsOf { ew := 0x1fffffff#29, now := 7 } = [.rst]

/-- The table of R81: each row's mask and match select its event, with its operand fields; every word has an event, `rst`
excludes every other, `NOP` stands alone, and a step has at most one receive and at most one transmit event. -/
def Obligations.EventTableSelectsEvents : Prop :=
  ∀ inp : Input,
    (Instr.rst ∈ eventsOf inp ↔ inp.ew &&& 0x10000000#29 = 0x10000000#29) ∧
    (Instr.nop ∈ eventsOf inp ↔ inp.ew &&& 0x1f000000#29 = 0x00000000#29) ∧
    (∀ b, Instr.rxb b ∈ eventsOf inp ↔
      inp.ew &&& 0x13000000#29 = 0x01000000#29 ∧ b = inp.ew.extractLsb' 0 8) ∧
    (∀ t, Instr.rxe t ∈ eventsOf inp ↔ inp.ew &&& 0x13000000#29 = 0x02000000#29 ∧ t = inp.now) ∧
    (∀ b t, Instr.rxbe b t ∈ eventsOf inp ↔
      inp.ew &&& 0x13000000#29 = 0x03000000#29 ∧ b = inp.ew.extractLsb' 0 8 ∧ t = inp.now) ∧
    (∀ b, Instr.txb b ∈ eventsOf inp ↔
      inp.ew &&& 0x1c000000#29 = 0x04000000#29 ∧ b = inp.ew.extractLsb' 8 8) ∧
    (∀ t, Instr.txe t ∈ eventsOf inp ↔
      inp.ew &&& 0x1c000000#29 = 0x08000000#29 ∧ t = inp.ew.extractLsb' 16 8) ∧
    (∀ b t, Instr.txbe b t ∈ eventsOf inp ↔
      inp.ew &&& 0x1c000000#29 = 0x0c000000#29 ∧ b = inp.ew.extractLsb' 8 8 ∧ t = inp.ew.extractLsb' 16 8) ∧
    eventsOf inp ≠ [] ∧
    ((eventsOf inp).filter isReceive).length ≤ 1 ∧
    ((eventsOf inp).filter isTransmit).length ≤ 1 ∧
    (Instr.rst ∈ eventsOf inp → eventsOf inp = [.rst]) ∧
    (Instr.nop ∈ eventsOf inp → eventsOf inp = [.nop]) ∧
    (∀ i ∈ eventsOf inp, i.isEvent = true)

/-- R84: a data field (or `now`) whose strobe is 0, and every other bit when `rst` is 1, changes nothing; the encoder writes
the ignored fields 0. -/
def Obligations.IgnoredFieldsAreIgnored : Prop :=
  (∀ a b : Input, ewRst a.ew = true → ewRst b.ew = true → eventsOf a = eventsOf b) ∧
  (∀ a b : Input, ewRst a.ew = ewRst b.ew → ewTxEnd a.ew = ewTxEnd b.ew → ewTxValid a.ew = ewTxValid b.ew →
    ewRxEnd a.ew = ewRxEnd b.ew → ewRxValid a.ew = ewRxValid b.ew →
    (ewTxEnd a.ew = true → ewTxType a.ew = ewTxType b.ew) →
    (ewTxValid a.ew = true → ewTxData a.ew = ewTxData b.ew) →
    (ewRxValid a.ew = true → ewRxData a.ew = ewRxData b.ew) →
    (ewRxEnd a.ew = true → a.now = b.now) → eventsOf a = eventsOf b) ∧
  (∀ (i : Instr) (inp : Input), encode i = .event inp →
    (ewTxEnd inp.ew = false → ewTxType inp.ew = 0) ∧ (ewTxValid inp.ew = false → ewTxData inp.ew = 0) ∧
    (ewRxValid inp.ew = false → ewRxData inp.ew = 0) ∧ (ewRst inp.ew = true → inp.ew = 0x10000000#29))

/-- Decoding the encoding of a well-formed instruction, event or frame class, gives it back, with every operand at every
value that its width holds (a `now` of `TS_W` bits, log entry 3), whatever the parameters of the block.
The frame class as an instruction is log entry 9. -/
def Obligations.DecodeEncodeAgree : Prop :=
  ∀ (p : Config.Params) (i : Instr), i.wf p = true → decode p (encode i) = .ok [i]

/-- Every valid frame decodes to one well-formed frame class whose encoding is that frame again, bit for bit; an invalid one
is refused with the error of `validate` (R87, R88, R183 (iii)). The class is well formed for every `now` of `TS_W` bits. -/
def Obligations.EncodeOfDecodedFrameAgrees : Prop :=
  ∀ (p : Config.Params) (raw : List Byte) (now : Ts),
    (∀ e, validate raw = .error e → decode p (.frame raw now) = .error (.invalidFrame e)) ∧
    (validate raw = .ok () → ∃ i, decode p (.frame raw now) = .ok [i] ∧ i.isEvent = false ∧
      (i.wf p = true ↔ fitsTs p now = true) ∧ encode i = .frame raw now)

/-! ### The step -/

/-- A step samples the script's next input, or a free one where the script is at its end, as its ports pass it on, and
performs exactly the events it decodes to, one or two, each by `exec`; so the encoding of a well-formed event runs that
event. How the inputs stand in the state, and the width of the `now` port, are the model's form (log entries 1, 3). -/
def Obligations.StepRunsDecodedEvents : Prop :=
  ∀ s : State,
    (∀ inp rest, s.script = inp :: rest →
      step s = runInstrs (eventsOf (atPorts s.params inp)) { s with script := rest }) ∧
    (s.script = [] →
      step s = runInstrs (eventsOf (atPorts s.params (Config.envInput s.envIdx))) { s with envIdx := s.envIdx + 1 }) ∧
    (∀ inp rest i, s.script = inp :: rest → eventsOf (atPorts s.params inp) = [i] →
      step s = exec i { s with script := rest }) ∧
    (∀ inp rest i j t, s.script = inp :: rest → eventsOf (atPorts s.params inp) = [i, j] →
      exec i { s with script := rest } = .next t → step s = exec j t) ∧
    (∀ inp rest i, s.script = inp :: rest → i.wf s.params = true → encode i = .event inp →
      step s = exec i { s with script := rest })

/-- No fault stops the block, no state is stuck, no input is refused: every step answers a next state. It consumes one
input and leaves the parameters.
Where the inputs come from is log entry 1. -/
def Obligations.EveryStepCompletes : Prop :=
  ∀ s : State, ∃ t, step s = .next t ∧ t.params = s.params ∧ t.script = s.script.tail ∧
    t.envIdx = s.envIdx + (if s.script = [] then 1 else 0)

/-! ### Reset and NOP -/

/-- `RST`: every register to 0, neither buffer written, both read windows closed, the bytes received so far discarded
(the next `RXE` reports the empty frame). It is performed exactly in a step whose `rst` bit is 1, with both strobe outputs 0
(R230). That a port answers a fault of its reader where a window is closed is the model's choice (log entry 14). -/
def Obligations.RstClearsRegistersOnly : Prop :=
  (∀ s : State, ∃ t, exec .rst s = .next t ∧
    t.rx.cnt = 0 ∧ t.rx.acc = 0 ∧
    t.res.resValid = false ∧ t.res.resErr = 0 ∧ t.res.resKind = 0 ∧ t.res.resType = 0 ∧ t.res.resChk = 0 ∧
    t.res.resPaylen = 0 ∧ t.res.resTime = 0 ∧
    t.res.sAddr = 0 ∧ t.res.sSub = false ∧ t.res.sNeg = false ∧ t.res.sBattNew = false ∧ t.res.sBattLow = false ∧
    t.res.sTdig = 0 ∧ t.res.sTemp = 0 ∧ t.res.sHumValid = false ∧ t.res.sHdig = 0 ∧ t.res.sHum = 0 ∧
    t.tx.txcnt = 0 ∧ t.tx.txacc = 0 ∧ t.tx.txOvf = false ∧
    t.txh.txhValid = false ∧ t.txh.txhErr = 0 ∧ t.txh.txhLen = 0 ∧ t.txh.txhType = 0 ∧ t.txh.txhChk = 0 ∧
    t.txh.txhN = 0 ∧
    t.rx.buf = s.rx.buf ∧ t.tx.txbuf = s.tx.txbuf ∧
    t.params = s.params ∧ t.script = s.script ∧ t.envIdx = s.envIdx ∧
    (∀ idx, plData idx t = .error .payloadWindowClosed) ∧ (∀ idx, txrData idx t = .error .transmitWindowClosed) ∧
    (∀ now, ∃ u, exec (.rxe now) t = .next u ∧ u.res = errorRegs .frameTooShort)) ∧
  (∀ inp : Input, ewRst inp.ew = true →
    eventsOf inp = [.rst] ∧ resStrobe inp.ew = false ∧ txStrobe inp.ew = false) ∧
  (∀ inp : Input, ewRst inp.ew = false → Instr.rst ∉ eventsOf inp)

/-- The launch state is the state after a reset step, of any state, in all that a reset step writes, and its busy outputs
are 0 (10_state.md R36, 70_reset_and_hazards.md R231). That its buffers list no byte and its script is empty is the
model's choice (log entries 1, 4, 5). -/
def Obligations.LaunchStateIsAfterReset : Prop :=
  (∀ s : State, ∃ t, exec .rst s = .next t ∧ t.res = State.reset.res ∧ t.txh = State.reset.txh ∧
    t.rx.cnt = State.reset.rx.cnt ∧ t.rx.acc = State.reset.rx.acc ∧ t.tx.txcnt = State.reset.tx.txcnt ∧
    t.tx.txacc = State.reset.tx.txacc ∧ t.tx.txOvf = State.reset.tx.txOvf) ∧
  rxBusy State.reset = false ∧ rxOvf State.reset = false ∧ txBusy State.reset = false ∧
  (∀ a, memRead .rxbuf a State.reset = none ∧ memRead .txbuf a State.reset = none)

/-- `NOP` leaves the whole state, and a step whose five strobes are 0 is `NOP` (00_scope.md R11, 60_exceptions.md R215). -/
def Obligations.NopLeavesEverything : Prop :=
  (∀ s : State, exec .nop s = .next s) ∧
  (∀ (s : State) (inp : Input) (rest : List Input), s.script = inp :: rest → inp.ew.extractLsb' 24 5 = 0 →
    step s = .next { s with script := rest })

/-! ### Receiving -/

/-- `RXB b`, result and frame: the three lines of R105 with `cnt` from before the step; nothing else is written, every other
byte of RXBUF and all of TXBUF stay, the payload window closes, `rx_busy` and `rx_ovf` follow `cnt`. And its encoding.
That the port answers a fault of its reader where the window is closed is the model's choice (log entry 14). -/
def Obligations.RxbTakesOneByte : Prop :=
  (∀ (inp : Input) (b : Byte), Instr.rxb b ∈ eventsOf inp ↔
    inp.ew &&& 0x13000000#29 = 0x01000000#29 ∧ b = ewRxData inp.ew) ∧
  ∀ (b : Byte) (s : State), ∃ t, exec (.rxb b) s = .next t ∧
    t.rx.cnt.toNat = min (s.rx.cnt.toNat + 1) 258 ∧
    t.rx.acc = (if 4 ≤ s.rx.cnt.toNat then s.rx.acc + b else s.rx.acc) ∧
    (s.rx.cnt.toNat < 257 → memRead .rxbuf s.rx.cnt.toNat t = some b) ∧
    (∀ a, a ≠ s.rx.cnt.toNat ∨ 257 ≤ s.rx.cnt.toNat → memRead .rxbuf a t = memRead .rxbuf a s) ∧
    (∀ a, memRead .txbuf a t = memRead .txbuf a s) ∧
    t.res = s.res ∧ t.tx = s.tx ∧ t.txh = s.txh ∧ t.params = s.params ∧ t.script = s.script ∧ t.envIdx = s.envIdx ∧
    rxBusy t = true ∧ (rxOvf t = true ↔ 257 ≤ s.rx.cnt.toNat) ∧
    (∀ idx, plData idx t = .error .payloadWindowClosed)

/-- `RXE`, result and frame, in every state: the checks of R106 on the registers, the first that fails decides, then the
classification; all result registers are latched, `cnt` and `acc` cleared, no buffer byte and nothing of the transmit
unit written; the errors it can give. And its encoding, with `res_strobe`. -/
def Obligations.RxeChecksInOrder : Prop :=
  (∀ (inp : Input) (now : Ts),
    (Instr.rxe now ∈ eventsOf inp ↔ inp.ew &&& 0x13000000#29 = 0x02000000#29 ∧ now = inp.now) ∧
    (Instr.rxe now ∈ eventsOf inp → resStrobe inp.ew = true)) ∧
  ∀ (now : Ts) (s : State), ∃ t, exec (.rxe now) s = .next t ∧
    (t.res.resErr = 0 ∨ t.res.resErr = 1 ∨ t.res.resErr = 2 ∨ t.res.resErr = 3 ∨ t.res.resErr = 4 ∨ t.res.resErr = 6) ∧
    t.res =
      (if s.rx.cnt.toNat < 4 then errorRegs .frameTooShort
       else if bufByte s.rx.buf 0 ≠ 0x81#8 then errorRegs .badStartByte
       else if (bufByte s.rx.buf 1).toNat + 2 ≠ s.rx.cnt.toNat then errorRegs .lengthMismatch
       else if bufByte s.rx.buf 3 ≠ s.rx.acc then errorRegs .checksumMismatch
       else resultRegs (classifyValid s.params (bufBytes s.rx.buf s.rx.cnt.toNat) now)) ∧
    t.rx.cnt = 0 ∧ t.rx.acc = 0 ∧ t.rx.buf = s.rx.buf ∧ (∀ a, memRead .rxbuf a t = memRead .rxbuf a s) ∧
    (∀ a, memRead .txbuf a t = memRead .txbuf a s) ∧
    t.tx = s.tx ∧ t.txh = s.txh ∧ t.params = s.params ∧ t.script = s.script ∧ t.envIdx = s.envIdx

/-- `RXBE b` is `RXB b` and then `RXE` in one step (R107): the same state as the two in a row. Its frame: `buf[cnt]` is
written if it exists, and no other buffer byte and nothing of the transmit unit; `cnt` and `acc` end at 0. And its
encoding. -/
def Obligations.RxbeIsByteThenEnd : Prop :=
  (∀ (inp : Input) (b : Byte) (now : Ts), Instr.rxbe b now ∈ eventsOf inp ↔
    inp.ew &&& 0x13000000#29 = 0x03000000#29 ∧ b = ewRxData inp.ew ∧ now = inp.now) ∧
  ∀ (b : Byte) (now : Ts) (s : State), ∃ t, exec (.rxbe b now) s = .next t ∧
    runInstrs [.rxb b, .rxe now] s = .next t ∧
    t.rx.cnt = 0 ∧ t.rx.acc = 0 ∧
    (s.rx.cnt.toNat < 257 → memRead .rxbuf s.rx.cnt.toNat t = some b) ∧
    (∀ a, a ≠ s.rx.cnt.toNat ∨ 257 ≤ s.rx.cnt.toNat → memRead .rxbuf a t = memRead .rxbuf a s) ∧
    (∀ a, memRead .txbuf a t = memRead .txbuf a s) ∧
    t.tx = s.tx ∧ t.txh = s.txh ∧ t.params = s.params ∧ t.script = s.script ∧ t.envIdx = s.envIdx

/-- A unit that has taken exactly the bytes `raw` answers `classify(raw, now)` at `RXE`, and `classify(raw ++ [b], now)` at
`RXBE b`. -/
def Obligations.EndOfTrackedFrameGivesClassify : Prop :=
  ∀ (raw : List Byte) (s : State), RxTracks raw s →
    (∀ now, ∃ t, exec (.rxe now) s = .next t ∧ t.res = resultRegs (classify s.params raw now) ∧ RxTracks [] t) ∧
    (∀ b now, ∃ t, exec (.rxbe b now) s = .next t ∧ t.res = resultRegs (classify s.params (raw ++ [b]) now) ∧
      RxTracks [] t)

/-- R108: from `cnt` = 0 and `acc` = 0, the bytes of `raw` streamed with any `NOP` and any transmit events in between and
then ended by `RXE`, or by `RXBE` with the last byte, latch the register image of `classify(raw, now)`; its frame-level
part is `from_bytes`. -/
def Obligations.StreamingEqualsClassify : Prop :=
  ∀ (s : State) (is : List Instr) (now : Ts), s.rx.cnt = 0 → s.rx.acc = 0 → (∀ i ∈ is, insideFrame i = true) →
    (∃ t, runInstrs (is ++ [.rxe now]) s = .next t ∧
      t.res = resultRegs (classify s.params (is.filterMap receivedByte) now)) ∧
    (∀ b, ∃ t, runInstrs (is ++ [.rxbe b now]) s = .next t ∧
      t.res = resultRegs (classify s.params (is.filterMap receivedByte ++ [b]) now)) ∧
    (∀ raw e, fromBytes raw now = .error e → classify s.params raw now = .error e) ∧
    (∀ raw f, fromBytes raw now = .ok f →
      (∀ g, classify s.params raw now = .ok (.generic g) → g = f) ∧
      (∀ r, classify s.params raw now = .ok (.sensor r) → r.frame = f))

/-- R109: more than 257 bytes always fail, as `LengthMismatch` after `0x81` and as `BadStartByte` otherwise; the bytes beyond
index 256 are not stored; `rx_ovf` is 1 from the 258th byte on. -/
def Obligations.OverlongInputFails : Prop :=
  (∀ (p : Config.Params) (raw : List Byte) (now : Ts), 257 < raw.length →
    classify p raw now = .error (if raw[0]? = some 0x81#8 then .lengthMismatch else .badStartByte)) ∧
  (∀ (raw : List Byte) (s : State) (now : Ts), RxTracks raw s → 257 < raw.length →
    rxOvf s = true ∧
    ∃ t, exec (.rxe now) s = .next t ∧
      t.res = errorRegs (if raw[0]? = some 0x81#8 then .lengthMismatch else .badStartByte)) ∧
  (∀ (b : Byte) (raw : List Byte) (s : State), RxTracks raw s → 257 ≤ raw.length →
    ∃ t, exec (.rxb b) s = .next t ∧ t.rx.buf = s.rx.buf ∧ t.res = s.res ∧ rxOvf t = true)

/-- R100: the checksum is the sum of the bytes as integers, mod 256. So (R101) it does not depend on the order of the bytes,
adds up over a concatenation, and sees nothing of a sequence but that sum. -/
def Obligations.ChecksumLaws : Prop :=
  (∀ bs : List Byte, (checksum bs).toNat = (bs.map BitVec.toNat).sum % 256) ∧
  (∀ a b : List Byte, a.Perm b → checksum a = checksum b) ∧
  (∀ a b : List Byte, (checksum (a ++ b)).toNat = ((checksum a).toNat + (checksum b).toNat) % 256) ∧
  (∀ a b : List Byte, (a.map BitVec.toNat).sum % 256 = (b.map BitVec.toNat).sum % 256 ↔ checksum a = checksum b)

/-- What a valid frame is (R70, R71, R102): the start marker, the length byte of the payload's length plus 2, any type, the
checksum of the payload, and the payload. So a valid frame has 4 to 257 bytes (R72). -/
def Obligations.ValidFramesCharacterized : Prop :=
  ∀ raw : List Byte,
    (validate raw = .ok () ↔
      ∃ (l ty : Byte) (payload : List Byte),
        raw = 0x81#8 :: l :: ty :: checksum payload :: payload ∧ l.toNat = payload.length + 2) ∧
    (validate raw = .ok () → 4 ≤ raw.length ∧ raw.length ≤ 257)

/-- The four checks of `validate` in their order, the first that fails decides (R102, R103, R204); the length is compared
as an integer. -/
def Obligations.ValidateChecksInOrder : Prop :=
  ∀ (b0 b1 b2 b3 : Byte) (payload raw : List Byte),
    (raw.length < 4 → validate raw = .error .frameTooShort) ∧
    (raw = b0 :: b1 :: b2 :: b3 :: payload →
      validate raw =
        (if b0 ≠ 0x81#8 then .error .badStartByte
         else if b1.toNat ≠ payload.length + 2 then .error .lengthMismatch
         else if b3 ≠ checksum payload then .error .checksumMismatch
         else .ok ()))

/-- R206: an `RXE` or `RXBE` that ends in an error leaves its code, `res_valid`, and 0 in every other result register,
clears `cnt` and `acc`, and touches no transmit state; a `TXE` that ends in an error leaves code 8 and 0 in the other
header registers, and clears `txcnt`, `txacc`, `tx_ovf`. -/
def Obligations.ErrorsRecordTheirCodeOnly : Prop :=
  (∀ (now : Ts) (s : State), ∃ t, exec (.rxe now) s = .next t ∧
    (t.res.resErr ≠ 0 → t.res = { ResultRegs.zero with resValid := true, resErr := t.res.resErr } ∧
      t.rx.cnt = 0 ∧ t.rx.acc = 0 ∧ t.rx.buf = s.rx.buf ∧ t.tx = s.tx ∧ t.txh = s.txh)) ∧
  (∀ (b : Byte) (now : Ts) (s : State), ∃ t, exec (.rxbe b now) s = .next t ∧
    (t.res.resErr ≠ 0 → t.res = { ResultRegs.zero with resValid := true, resErr := t.res.resErr } ∧
      t.rx.cnt = 0 ∧ t.rx.acc = 0 ∧ t.tx = s.tx ∧ t.txh = s.txh)) ∧
  (∀ (b t : Byte) (s : State), ∀ i ∈ [Instr.txe t, Instr.txbe b t], ∃ u, exec i s = .next u ∧
    (u.txh.txhErr ≠ 0 → u.txh = { HeaderRegs.zero with txhErr := 8 } ∧
      u.tx.txcnt = 0 ∧ u.tx.txacc = 0 ∧ u.tx.txOvf = false ∧ u.rx = s.rx ∧ u.res = s.res))

/-! ### Dispatching -/

/-- R134: a valid frame no predicate accepts is the generic frame, latched with kind 1; every length but 16, every sub-type
above 1 and every wrong constant make such a frame. -/
def Obligations.UnclaimedFramesAreGeneric : Prop :=
  (∀ (p : Config.Params) (raw : List Byte) (now : Ts), validate raw = .ok () → claimed p raw = false →
    ∃ f : Frame, classify p raw now = .ok (.generic f) ∧
      raw[2]? = some f.typ ∧ raw[3]? = some f.checksum ∧ f.payload = raw.drop 4 ∧ f.receivedAt = now ∧
      (resultRegs (classify p raw now)).resErr = 0 ∧ (resultRegs (classify p raw now)).resKind = 1) ∧
  (∀ (p : Config.Params) (raw : List Byte), raw.length ≠ 16 → claimed p raw = false) ∧
  (∀ (p : Config.Params) (raw : List Byte), 1 < (subOf raw).toNat → claimed p raw = false) ∧
  (∀ (p : Config.Params) (raw : List Byte) (i : Fin 16),
    byteAt raw i &&& p.sensorMask[i] ≠ p.sensorMatch[i] → claimed p raw = false)

/-- R150: the predicate, over any constants: the length, every constant position, the sub-type nibble, and nothing else; the
examples of the rule, with the default constants. -/
def Obligations.SensorPredicateChecks : Prop :=
  (∀ (p : Config.Params) (raw : List Byte), acceptsSensor p raw = true ↔
    raw.length = 16 ∧ (∀ i : Fin 16, byteAt raw i &&& p.sensorMask[i] = p.sensorMatch[i]) ∧
    (byteAt raw 5 &&& 0x0f#8).toNat ≤ 1) ∧
  acceptsSensor Config.defaultParams
    [0x81, 0x0e, 0x04, 0xc5, 0x05, 0x10, 0xa0, 0x01, 0xb6, 0x40, 0x00, 0x00, 0x00, 0x18, 0x01, 0x00] = true ∧
  acceptsSensor Config.defaultParams
    [0x81, 0x0e, 0x04, 0xc5, 0x05, 0x12, 0xa0, 0x01, 0xb6, 0x40, 0x00, 0x00, 0x00, 0x18, 0x01, 0x00] = false ∧
  acceptsSensor Config.defaultParams
    [0x81, 0x0e, 0x04, 0xc5, 0x05, 0x10, 0xa1, 0x01, 0xb6, 0x40, 0x00, 0x00, 0x00, 0x18, 0x01, 0x00] = false

/-- R130: a valid frame an entry accepts is answered by that entry's constructor, error or not; the dispatcher does not go
on to the generic fallback. -/
def Obligations.ClaimedFramesAreDecoded : Prop :=
  ∀ (p : Config.Params) (raw : List Byte) (now : Ts), validate raw = .ok () → claimed p raw = true →
    classify p raw now = decodeSensor p raw now ∧
    (classify p raw now = .error .invalidDigit ∨ ∃ r, classify p raw now = .ok (.sensor r))

/-- R131: over any registry of pure predicates and constructors, the first entry in order that accepts decides, and the
generic frame is last. -/
def Obligations.FirstAcceptingEntryWins : Prop :=
  (∀ (before after : List Entry) (e : Entry) (raw : List Byte) (now : Ts),
    (∀ x ∈ before, x.accepts raw = false) → e.accepts raw = true →
    classifyValidWith (before ++ e :: after) raw now = e.construct raw now) ∧
  (∀ (registry : List Entry) (raw : List Byte) (now : Ts), (∀ x ∈ registry, x.accepts raw = false) →
    classifyValidWith registry raw now = .ok (.generic (frameOf raw now)))

/-- The predicate with the default constants (R150 to R152): exactly the 16-byte sequences with these bytes, everything else
free. Which bytes are constant is decision D12 of the spec; the default parameters are log entry 7.
Which positions a block built otherwise has is its parameters' matter (log entry 2). -/
def Obligations.DefaultSensorPredicate : Prop :=
  ∀ raw : List Byte, acceptsSensor Config.defaultParams raw = true ↔
    ∃ chk b5 b8 b9 b10 b11 b12 b13 b14 b15 : Byte, (b5 = 0x10#8 ∨ b5 = 0x11#8) ∧
      raw = [0x81#8, 0x0e#8, 0x04#8, chk, 0x05#8, b5, 0xa0#8, 0x01#8, b8, b9, b10, b11, b12, b13, b14, b15]

/-! ### The sensor decoder -/

/-- `SENSOR_TH`, result and frame: with six decimal digits the whole reading is latched, with any other nibble the error
`InvalidDigit` and nothing of the reading. RXBUF holds the frame's bytes; every other byte, and the transmit unit, stay.
The place of the flags in byte 12 is log entry 6, the frame class as an instruction log entry 9. -/
def Obligations.SensorThReading : Prop :=
  ∀ (f : SensorFrame) (now : Ts) (s : State), ∃ t, exec (.sensorTh f now) s = .next t ∧
    ((f.n0.toNat ≤ 9 ∧ f.n1.toNat ≤ 9 ∧ f.n2.toNat ≤ 9 ∧ f.n3.toNat ≤ 9 ∧ f.n4.toNat ≤ 9 ∧ f.n5.toNat ≤ 9) →
      t.res.resValid = true ∧ t.res.resErr = 0 ∧ t.res.resKind = 2 ∧ t.res.resType = f.typ ∧
      t.res.resChk = checksum (sensorPayload false f) ∧ t.res.resPaylen = 12 ∧ t.res.resTime = now ∧
      t.res.sAddr = f.addr ∧ t.res.sSub = false ∧ t.res.sNeg = f.neg ∧ t.res.sBattNew = f.battNew ∧
      t.res.sBattLow = f.battLow ∧ t.res.sTdig = f.n3 ++ f.n0 ++ f.n1 ∧
      t.res.sTemp.toInt =
        (if f.neg then -1 else 1) * ((100 * f.n3.toNat + 10 * f.n0.toNat + f.n1.toNat : Nat) : Int) ∧
      t.res.sHumValid = true ∧ t.res.sHdig = f.n4 ++ f.n5 ++ f.n2 ∧
      t.res.sHum.toNat = 100 * f.n4.toNat + 10 * f.n5.toNat + f.n2.toNat) ∧
    (¬ (f.n0.toNat ≤ 9 ∧ f.n1.toNat ≤ 9 ∧ f.n2.toNat ≤ 9 ∧ f.n3.toNat ≤ 9 ∧ f.n4.toNat ≤ 9 ∧ f.n5.toNat ≤ 9) →
      t.res = errorRegs .invalidDigit) ∧
    t.rx.cnt = 0 ∧ t.rx.acc = 0 ∧
    (∀ a, memRead .rxbuf a t = if a < 16 then (sensorBytes false f)[a]? else memRead .rxbuf a s) ∧
    (∀ a, memRead .txbuf a t = memRead .txbuf a s) ∧
    t.tx = s.tx ∧ t.txh = s.txh ∧ t.params = s.params ∧ t.script = s.script ∧ t.envIdx = s.envIdx

/-- `SENSOR_T`, result and frame: the humidity is absent, its registers hold the absence encoding, and its nibbles matter
only where the parameter `HUM_CHECK_WHEN_ABSENT` is true (R158, R162).
The place of the flags in byte 12 is log entry 6, the parameter log entry 8, the instruction log entry 9. -/
def Obligations.SensorTReading : Prop :=
  ∀ (f : SensorFrame) (now : Ts) (s : State), ∃ t, exec (.sensorT f now) s = .next t ∧
    (((f.n0.toNat ≤ 9 ∧ f.n1.toNat ≤ 9 ∧ f.n3.toNat ≤ 9) ∧
        (s.params.humCheckWhenAbsent = true → f.n2.toNat ≤ 9 ∧ f.n4.toNat ≤ 9 ∧ f.n5.toNat ≤ 9)) →
      t.res.resValid = true ∧ t.res.resErr = 0 ∧ t.res.resKind = 2 ∧ t.res.resType = f.typ ∧
      t.res.resChk = checksum (sensorPayload true f) ∧ t.res.resPaylen = 12 ∧ t.res.resTime = now ∧
      t.res.sAddr = f.addr ∧ t.res.sSub = true ∧ t.res.sNeg = f.neg ∧ t.res.sBattNew = f.battNew ∧
      t.res.sBattLow = f.battLow ∧ t.res.sTdig = f.n3 ++ f.n0 ++ f.n1 ∧
      t.res.sTemp.toInt =
        (if f.neg then -1 else 1) * ((100 * f.n3.toNat + 10 * f.n0.toNat + f.n1.toNat : Nat) : Int) ∧
      t.res.sHumValid = false ∧ t.res.sHdig = 0 ∧ t.res.sHum = 0) ∧
    (¬ ((f.n0.toNat ≤ 9 ∧ f.n1.toNat ≤ 9 ∧ f.n3.toNat ≤ 9) ∧
        (s.params.humCheckWhenAbsent = true → f.n2.toNat ≤ 9 ∧ f.n4.toNat ≤ 9 ∧ f.n5.toNat ≤ 9)) →
      t.res = errorRegs .invalidDigit) ∧
    t.rx.cnt = 0 ∧ t.rx.acc = 0 ∧
    (∀ a, memRead .rxbuf a t = if a < 16 then (sensorBytes true f)[a]? else memRead .rxbuf a s) ∧
    (∀ a, memRead .txbuf a t = memRead .txbuf a s) ∧
    t.tx = s.tx ∧ t.txh = s.txh ∧ t.params = s.params ∧ t.script = s.script ∧ t.envIdx = s.envIdx

/-- `GENERIC`, result and frame: type, checksum, payload length and time are latched, every sensor register 0; a payload that
no length byte describes is `LengthMismatch`. RXBUF holds the frame's bytes.
The frame class as an instruction is log entry 9, the length byte of a payload that is too long log entry 17. -/
def Obligations.GenericFrameReading : Prop :=
  ∀ (typ : Byte) (payload : List Byte) (now : Ts) (s : State), ∃ t, exec (.generic typ payload now) s = .next t ∧
    (payload.length ≤ 253 →
      t.res.resValid = true ∧ t.res.resErr = 0 ∧ t.res.resKind = 1 ∧ t.res.resType = typ ∧
      t.res.resChk = checksum payload ∧ t.res.resPaylen.toNat = payload.length ∧ t.res.resTime = now ∧
      SensorRegsAbsent t.res) ∧
    (253 < payload.length → t.res = errorRegs .lengthMismatch) ∧
    t.rx.cnt = 0 ∧ t.rx.acc = 0 ∧
    (∀ a, memRead .rxbuf a t =
      if a < payload.length + 4 ∧ a < 257 then (wireBytes typ payload)[a]? else memRead .rxbuf a s) ∧
    (∀ a, memRead .txbuf a t = memRead .txbuf a s) ∧
    t.tx = s.tx ∧ t.txh = s.txh ∧ t.params = s.params ∧ t.script = s.script ∧ t.envIdx = s.envIdx

/-- R159: the magnitude from the nibbles of bytes 13 and 14, the value with its sign, and its register form, exact from -999
to 999, with the rule's four examples; and every reading carries that value and that register. -/
def Obligations.TemperatureRegisterExact : Prop :=
  (∀ (p : Config.Params) (raw : List Byte) (now : Ts) (r : SensorReading), decodeSensor p raw now = .ok (.sensor r) →
    r.temp = tempValue r.neg (digitsValue (tempDigits raw)) ∧
    (sensorRegs r).sTemp.toInt = r.temp) ∧
  (∀ raw : List Byte, digitsValue (tempDigits raw) =
    100 * (loNibble (byteAt raw 14)).toNat + 10 * (hiNibble (byteAt raw 13)).toNat + (loNibble (byteAt raw 13)).toNat) ∧
  (∀ (neg : Bool) (d : Digits), decimal d = true →
    digitsValue d ≤ 999 ∧
    tempValue neg (digitsValue d) = (if neg then -1 else 1) * (digitsValue d : Int) ∧
    (tempRegister neg (digitsValue d)).toInt = tempValue neg (digitsValue d)) ∧
  tempRegister false 118 = 0x0076#16 ∧ tempRegister true 118 = 0xff8a#16 ∧
  tempRegister false 999 = 0x03e7#16 ∧ tempRegister true 999 = 0xfc19#16

/-- R160: a reading with the sign bit and the digits 0, 0, 0 has temperature 0; the sign bit stays visible. -/
def Obligations.NegativeZeroIsZero : Prop :=
  ∀ (p : Config.Params) (raw : List Byte) (now : Ts) (r : SensorReading), decodeSensor p raw now = .ok (.sensor r) →
    r.neg = true → r.tdig = { d2 := 0, d1 := 0, d0 := 0 } →
    r.temp = 0 ∧ (sensorRegs r).sTemp = 0x0000#16 ∧ (sensorRegs r).sNeg = true ∧ (sensorRegs r).sTdig = 0x000#12

/-- R164: `decode_sensor` alone refuses a sub-type above 1; through `classify` such a frame is generic, no result of
`classify` is that error, and no `RXE` or `RXBE` latches code 5. -/
def Obligations.UnsupportedSubtypeUnreachable : Prop :=
  (∀ (p : Config.Params) (raw : List Byte) (now : Ts), 1 < (subOf raw).toNat →
    decodeSensor p raw now = .error .unsupportedDeviceSubtype ∧
    (validate raw = .ok () → classify p raw now = .ok (.generic (frameOf raw now)))) ∧
  (∀ (p : Config.Params) (raw : List Byte) (now : Ts), classify p raw now ≠ .error .unsupportedDeviceSubtype) ∧
  (∀ (b : Byte) (now : Ts) (s : State), ∀ i ∈ [Instr.rxe now, Instr.rxbe b now], ∃ t, exec i s = .next t ∧
    t.res.resErr ≠ 5)

/-- A frame class does what its bytes do when the environment streams them (R87, R91, R108): from an idle receive unit, a
well-formed `SENSOR_TH`, `SENSOR_T` or `GENERIC` and the macro `RXF` of its encoding end in the same state, all of it.
The frame class as an instruction is log entry 9. -/
def Obligations.FrameClassesAreStreamedFrames : Prop :=
  ∀ (s : State) (i : Instr) (raw : List Byte) (now : Ts), s.rx.cnt = 0 → s.rx.acc = 0 → i.wf s.params = true →
    encode i = .frame raw now →
    ∃ t, exec i s = .next t ∧ runInstrs (rxf raw now) s = .next t ∧ runInstrs (rxfs raw now) s = .next t

/-- R166: `device_id` is four digits, digit `k` the lower-case hexadecimal digit of `s_addr[15-4k : 12-4k]`, with the
examples of the rule; different addresses have different ids. -/
def Obligations.DeviceIdDigits : Prop :=
  (∀ a : BitVec 16, deviceId a = String.ofList (deviceIdDigits a) ∧ (deviceIdDigits a).length = 4 ∧
    ∀ k, k < 4 → (deviceIdDigits a)[k]? =
      ['0', '1', '2', '3', '4', '5', '6', '7', '8', '9', 'a', 'b', 'c', 'd', 'e', 'f'][a.toNat / 16 ^ (3 - k) % 16]?) ∧
  deviceId 0xb640#16 = "b640" ∧ deviceId 0x3640#16 = "3640" ∧ deviceId 0x000a#16 = "000a" ∧
  (∀ a b : BitVec 16, deviceId a = deviceId b → a = b)

/-! ### Transmitting -/

/-- `TXB b`, result and frame (R186): accepted while fewer than 253 bytes are, else dropped with `tx_ovf`; the header
registers and the receive unit stay, the transmit window closes. And its encoding. That the port answers a fault of its
reader where the window is closed is the model's choice (log entry 14). -/
def Obligations.TxbAcceptsOneByte : Prop :=
  (∀ (inp : Input) (b : Byte), Instr.txb b ∈ eventsOf inp ↔
    inp.ew &&& 0x1c000000#29 = 0x04000000#29 ∧ b = ewTxData inp.ew) ∧
  ∀ (b : Byte) (s : State), ∃ t, exec (.txb b) s = .next t ∧
    (s.tx.txcnt.toNat < 253 →
      t.tx.txcnt.toNat = s.tx.txcnt.toNat + 1 ∧ t.tx.txacc = s.tx.txacc + b ∧ t.tx.txOvf = s.tx.txOvf ∧
      memRead .txbuf s.tx.txcnt.toNat t = some b ∧
      (∀ a, a ≠ s.tx.txcnt.toNat → memRead .txbuf a t = memRead .txbuf a s)) ∧
    (253 ≤ s.tx.txcnt.toNat →
      t.tx = { s.tx with txOvf := true } ∧ (∀ a, memRead .txbuf a t = memRead .txbuf a s)) ∧
    (∀ a, memRead .rxbuf a t = memRead .rxbuf a s) ∧
    t.txh = s.txh ∧ t.rx = s.rx ∧ t.res = s.res ∧ t.params = s.params ∧ t.script = s.script ∧ t.envIdx = s.envIdx ∧
    txBusy t = true ∧ (∀ idx, txrData idx t = .error .transmitWindowClosed)

/-- `TXE t`, result and frame (R187): the header of the accepted payload, or `PayloadTooLong` and no header; the working
registers cleared, no buffer byte written, the receive unit untouched. And its encoding, with `tx_strobe`. -/
def Obligations.TxeBuildsHeader : Prop :=
  (∀ (inp : Input) (t : Byte),
    (Instr.txe t ∈ eventsOf inp ↔ inp.ew &&& 0x1c000000#29 = 0x08000000#29 ∧ t = ewTxType inp.ew) ∧
    (Instr.txe t ∈ eventsOf inp → txStrobe inp.ew = true)) ∧
  ∀ (t : Byte) (s : State), ∃ u, exec (.txe t) s = .next u ∧
    (s.tx.txOvf = true →
      u.txh.txhValid = false ∧ u.txh.txhErr = 8 ∧ u.txh.txhLen = 0 ∧ u.txh.txhType = 0 ∧ u.txh.txhChk = 0 ∧
      u.txh.txhN = 0) ∧
    (s.tx.txOvf = false →
      u.txh.txhValid = true ∧ u.txh.txhErr = 0 ∧ u.txh.txhLen = s.tx.txcnt + 2 ∧ u.txh.txhType = t ∧
      u.txh.txhChk = s.tx.txacc ∧ u.txh.txhN = s.tx.txcnt ∧
      (s.tx.txcnt.toNat ≤ 253 → u.txh.txhLen.toNat = s.tx.txcnt.toNat + 2)) ∧
    u.tx.txcnt = 0 ∧ u.tx.txacc = 0 ∧ u.tx.txOvf = false ∧ u.tx.txbuf = s.tx.txbuf ∧
    (∀ a, memRead .txbuf a u = memRead .txbuf a s) ∧ (∀ a, memRead .rxbuf a u = memRead .rxbuf a s) ∧
    u.rx = s.rx ∧ u.res = s.res ∧ u.params = s.params ∧ u.script = s.script ∧ u.envIdx = s.envIdx

/-- `TXBE b t` is `TXB b` and then `TXE t` in one step (R188); its frame: at most `txbuf[txcnt]` is written, the working
registers end cleared, the receive unit is untouched. And its encoding. -/
def Obligations.TxbeIsByteThenEnd : Prop :=
  (∀ (inp : Input) (b t : Byte), Instr.txbe b t ∈ eventsOf inp ↔
    inp.ew &&& 0x1c000000#29 = 0x0c000000#29 ∧ b = ewTxData inp.ew ∧ t = ewTxType inp.ew) ∧
  ∀ (b t : Byte) (s : State), ∃ u, exec (.txbe b t) s = .next u ∧
    runInstrs [.txb b, .txe t] s = .next u ∧
    (s.tx.txcnt.toNat < 253 → memRead .txbuf s.tx.txcnt.toNat u = some b) ∧
    (∀ a, a ≠ s.tx.txcnt.toNat ∨ 253 ≤ s.tx.txcnt.toNat → memRead .txbuf a u = memRead .txbuf a s) ∧
    (∀ a, memRead .rxbuf a u = memRead .rxbuf a s) ∧
    u.tx.txcnt = 0 ∧ u.tx.txacc = 0 ∧ u.tx.txOvf = false ∧
    u.rx = s.rx ∧ u.res = s.res ∧ u.params = s.params ∧ u.script = s.script ∧ u.envIdx = s.envIdx

/-- R190: from an idle transmit unit, the payload offered with any `NOP` and receive events in between and then built gives
`encode(t, p)`: its bytes are the bytes to send, or its error is latched. -/
def Obligations.StreamingEqualsEncode : Prop :=
  ∀ (s : State) (is : List Instr) (t : Byte), s.tx.txcnt = 0 → s.tx.txacc = 0 → s.tx.txOvf = false →
    (∀ i ∈ is, insidePayload i = true) →
    ∃ u, runInstrs (is ++ [.txe t]) s = .next u ∧
      ((is.filterMap offeredByte).length ≤ 253 →
        u.txh.txhValid = true ∧ encodeBytes t (is.filterMap offeredByte) = .ok (bytesToSend u)) ∧
      (253 < (is.filterMap offeredByte).length →
        u.txh.txhValid = false ∧ u.txh.txhErr = 8 ∧
        encodeBytes t (is.filterMap offeredByte) = .error .payloadTooLong)

/-- R185: a payload of more than 253 bytes is `PayloadTooLong`, code 8, and no frame; any other payload is a frame. And a
type tag that is not one byte is `InvalidTypeTag`, which no instruction can latch on either side (R184). -/
def Obligations.FramerErrors : Prop :=
  (∀ (t : Byte) (p : List Byte),
    (253 < p.length → fromTypeAndPayload t p = .error .payloadTooLong ∧ encodeBytes t p = .error .payloadTooLong) ∧
    (p.length ≤ 253 → fromTypeAndPayload t p = .ok { typ := t, checksum := checksum p, payload := p })) ∧
  ErrorCode.payloadTooLong.code = 8 ∧ ErrorCode.invalidTypeTag.code = 7 ∧
  (∀ tag p : List Byte, tag.length ≠ 1 → fromTagAndPayload tag p = .error .invalidTypeTag) ∧
  (∀ (t : Byte) (p : List Byte), fromTagAndPayload [t] p = fromTypeAndPayload t p) ∧
  (∀ (i : Instr) (s : State), ∃ t, exec i s = .next t ∧ (s.res.resErr ≠ 7 → t.res.resErr ≠ 7) ∧
    (s.txh.txhErr ≠ 7 → t.txh.txhErr ≠ 7))

/-- R183, the three round-trip laws: from type and payload, from a frame whose checksum and length are right, and from the
bytes of a valid frame. -/
def Obligations.RoundTripLaws : Prop :=
  (∀ (t : Byte) (p : List Byte) (now : Ts), p.length ≤ 253 →
    ∃ raw f, encodeBytes t p = .ok raw ∧ validate raw = .ok () ∧ fromBytes raw now = .ok f ∧
      toBytes f.toBuiltFrame = raw ∧ f.typ = t ∧ f.payload = p) ∧
  (∀ (f : BuiltFrame) (now : Ts), f.checksum = checksum f.payload → f.payload.length ≤ 253 →
    ∃ g, fromBytes (toBytes f) now = .ok g ∧ toBytes g.toBuiltFrame = toBytes f) ∧
  (∀ (raw : List Byte) (t : Byte), validate raw = .ok () → raw[2]? = some t → encodeBytes t (raw.drop 4) = .ok raw)

/-- The round trip on the block: a payload of at most 253 bytes built by the transmit unit, its bytes to send streamed into
the receive unit, gives no frame-level error, and a generic result has the type, checksum and payload that went in. -/
def Obligations.LoopbackReturnsTheFrame : Prop :=
  ∀ (s : State) (t : Byte) (p : List Byte) (now : Ts), s.tx.txcnt = 0 → s.tx.txacc = 0 → s.tx.txOvf = false →
    s.rx.cnt = 0 → s.rx.acc = 0 → p.length ≤ 253 →
    ∃ u v, runInstrs (txf t p) s = .next u ∧ runInstrs (rxf (bytesToSend u) now) u = .next v ∧
      v.res = resultRegs (classifyValid s.params (bytesToSend u) now) ∧
      (v.res.resKind = 1 → v.res.resType = t ∧ v.res.resChk = checksum p ∧ payloadBytes v = p) ∧
      (v.res.resErr = 0 ∨ v.res.resErr = 6)

/-! ### The two halves, the outputs and the windows -/

/-- What the receive events and frame classes leave: the transmit unit and its header. What the transmit events leave: the
receive unit and its results. Neither touches the parameters or the inputs (20_memory.md R60). -/
def Obligations.HalvesShareNothing : Prop :=
  (∀ (i : Instr) (s : State), isReceive i = true → ∃ t, exec i s = .next t ∧
    t.tx = s.tx ∧ t.txh = s.txh ∧ t.params = s.params ∧ t.script = s.script ∧ t.envIdx = s.envIdx) ∧
  (∀ (i : Instr) (s : State), isTransmit i = true → ∃ t, exec i s = .next t ∧
    t.rx = s.rx ∧ t.res = s.res ∧ t.params = s.params ∧ t.script = s.script ∧ t.envIdx = s.envIdx)

/-- A receive event and a transmit event of one step may be applied in either order: the same state comes out (R60). -/
def Obligations.ReceiveAndTransmitCommute : Prop :=
  ∀ (i j : Instr) (s : State), isReceive i = true → isTransmit j = true →
    ∃ t, runInstrs [i, j] s = .next t ∧ runInstrs [j, i] s = .next t

/-- R28: `res_valid` is set by every frame end and cleared only by reset; `res_strobe`, `rx_busy` and `rx_ovf` are the
functions the rule gives, and no instruction reads any of them: they are functions of the state and the event word. -/
def Obligations.StatusOutputs : Prop :=
  (∀ (i : Instr) (s : State), ∃ t, exec i s = .next t ∧
    (endsFrame i = true → t.res.resValid = true) ∧ (s.res.resValid = true → i ≠ .rst → t.res.resValid = true)) ∧
  (∀ (s : State) (inp : Input),
    ((outputs s inp.ew).resStrobe = true ↔ ∃ i ∈ eventsOf inp, endsFrame i = true) ∧
    ((outputs s inp.ew).txStrobe = true ↔
      (∃ t, Instr.txe t ∈ eventsOf inp) ∨ ∃ b t, Instr.txbe b t ∈ eventsOf inp) ∧
    ((outputs s inp.ew).rxBusy = true ↔ s.rx.cnt ≠ 0) ∧
    ((outputs s inp.ew).rxOvf = true ↔ s.rx.cnt.toNat = 258) ∧
    ((outputs s inp.ew).txBusy = true ↔ s.tx.txcnt ≠ 0 ∨ s.tx.txOvf = true))

/-- R235: the result registers hold until the next frame end or reset; a frame end overwrites all of them with its own
result, so that nothing of the earlier one is left. -/
def Obligations.ResultWindow : Prop :=
  (∀ (i : Instr) (s : State), endsFrame i = false → i ≠ .rst → ∃ t, exec i s = .next t ∧ t.res = s.res) ∧
  (∀ (i : Instr) (s : State) (r : ResultRegs), endsFrame i = true ∨ i = .rst →
    ∃ t u, exec i s = .next t ∧ exec i { s with res := r } = .next u ∧ t.res = u.res)

/-- R111: after an `RXE` without error, and through any `NOP` and transmit events, `pl_data` shows the payload byte at every
index below `res_paylen`; elsewhere, and after an error, a reset or the next `RXB`, where the rule says `unspecified`, it
shows no value, which is the model's form of that (log entry 14). -/
def Obligations.PayloadReadout : Prop :=
  ∀ (raw : List Byte) (s : State) (now : Ts) (is : List Instr), RxTracks raw s →
    (∀ i ∈ is, isTransmit i = true ∨ i = .nop) →
    ∃ t, runInstrs (.rxe now :: is) s = .next t ∧
      (t.res.resErr = 0 →
        t.res.resPaylen.toNat + 4 = raw.length ∧
        (∀ idx : Byte, idx.toNat < t.res.resPaylen.toNat → ∃ b, raw[4 + idx.toNat]? = some b ∧ plData idx t = .ok b) ∧
        (∀ idx : Byte, t.res.resPaylen.toNat ≤ idx.toNat → plData idx t = .error .payloadWindowClosed)) ∧
      (t.res.resErr ≠ 0 → ∀ idx, plData idx t = .error .payloadWindowClosed) ∧
      (∀ b, ∃ u, exec (.rxb b) t = .next u ∧ ∀ idx, plData idx u = .error .payloadWindowClosed) ∧
      (∃ u, exec .rst t = .next u ∧ u.rx.buf = t.rx.buf ∧ u.res.resPaylen = 0 ∧ ∀ idx, plData idx u = .error .payloadWindowClosed)

/-- R189: after a `TXE` that built a frame, and through any `NOP` and receive events, `txr_data` shows every payload byte
below `txh_n`, and the bytes to send are `to_bytes` of the built frame; elsewhere, and after a failed `TXE`, the next `TXB`
or a reset, where the rule says `unspecified`, it shows no value, which is the model's form of that (log entry 14). -/
def Obligations.TransmitReadout : Prop :=
  ∀ (p : List Byte) (s : State) (ty : Byte) (is : List Instr), TxTracks p s →
    (∀ i ∈ is, isReceive i = true ∨ i = .nop) →
    ∃ t, runInstrs (.txe ty :: is) s = .next t ∧
      (t.txh.txhValid = true →
        t.txh.txhN.toNat = p.length ∧
        bytesToSend t = toBytes { typ := ty, checksum := checksum p, payload := p } ∧
        (∀ idx : Byte, idx.toNat < t.txh.txhN.toNat → ∃ b, p[idx.toNat]? = some b ∧ txrData idx t = .ok b) ∧
        (∀ idx : Byte, t.txh.txhN.toNat ≤ idx.toNat → txrData idx t = .error .transmitWindowClosed)) ∧
      (t.txh.txhValid = false → ∀ idx, txrData idx t = .error .transmitWindowClosed) ∧
      (∀ b, ∃ u, exec (.txb b) t = .next u ∧ ∀ idx, txrData idx u = .error .transmitWindowClosed) ∧
      (∃ u, exec .rst t = .next u ∧ ∀ idx, txrData idx u = .error .transmitWindowClosed)

/-- The macros `RXF` and `RXFS` of the same bytes leave the same state, in `k` and `k + 1` events (R91). -/
def Obligations.MacrosAgree : Prop :=
  ∀ (bs : List Byte) (now : Ts) (s : State),
    (∃ t, runInstrs (rxf bs now) s = .next t ∧ runInstrs (rxfs bs now) s = .next t) ∧
    (bs ≠ [] → (rxf bs now).length = bs.length) ∧ (rxfs bs now).length = bs.length + 1

/-! ### Invariants -/

/-- The launch state satisfies the invariant.
That its buffers list no byte is log entry 4. -/
def Obligations.InvariantAtReset : Prop := Inv State.reset

/-- Every step keeps the invariant: the canonical form and the bounds of both buffers, the ranges of both counters, both
accumulators, the legal register images, and both windows. From every state that has it, whatever the input. -/
def Obligations.StepKeepsInvariant : Prop :=
  ∀ s t : State, Inv s → step s = .next t → Inv t

/-- In every state with the invariant whose transmit window is open, the bytes to send are a valid frame with the header's
type and checksum. -/
def Obligations.BytesToSendAreValid : Prop :=
  ∀ s : State, Inv s → transmitOpen s = true →
    validate (bytesToSend s) = .ok () ∧
    ∀ now, ∃ f, fromBytes (bytesToSend s) now = .ok f ∧ f.typ = s.txh.txhType ∧ f.checksum = s.txh.txhChk ∧
      f.payload.length = s.txh.txhN.toNat

/-- The launch state reflects the empty history.
That it is the state after a reset step is log entry 5. -/
def Obligations.ResetReflectsEmptyHistory : Prop := Reflects History.empty State.reset

/-- R37: every register is at all times what the functional layer gives on the bytes since the last end and on the last
frame of either side, and on nothing else. From a state that reflects a history, every well-formed instruction leads to a
state that reflects the history with that instruction added. That a frame class in the middle of a frame drops the bytes
taken so far is the model's choice (log entry 9). -/
def Obligations.StateReflectsHistory : Prop :=
  ∀ (h : History) (s : State) (i : Instr), Reflects h s → i.wf s.params = true →
    ∃ t, exec i s = .next t ∧ Reflects (historyAfter h i) t

/-- No frame leaves a trace in a later result: two states with the same parameters and no frame in progress, whatever their
buffers, results and transmit units, latch the same result at the end of every run of the same instructions. -/
def Obligations.NoTraceOfEarlierFrames : Prop :=
  ∀ (s s' : State) (is : List Instr) (now : Ts), s.params = s'.params →
    s.rx.cnt = 0 → s.rx.acc = 0 → s'.rx.cnt = 0 → s'.rx.acc = 0 →
    ∃ t t', runInstrs (is ++ [.rxe now]) s = .next t ∧ runInstrs (is ++ [.rxe now]) s' = .next t' ∧ t.res = t'.res

/-- R83, R25: whatever the width `TS_W` of the block, a step that ends a frame latches in `res_time` the `TS_W` bits at the
`now` port, unchanged where the number fits the port, and 0 with an error; every other step but a reset leaves `res_time`.
How a number stands for the bits at the port is the model's choice (log entry 3). -/
def Obligations.TimeStampIsSampledAtFrameEnd : Prop :=
  ∀ (s : State) (inp : Input) (rest : List Input), s.script = inp :: rest → ewRst inp.ew = false →
    ∃ t, step s = .next t ∧
      (ewRxEnd inp.ew = true →
        (t.res.resErr = 0 → t.res.resTime = inp.now % 2 ^ s.params.tsW) ∧
        (t.res.resErr = 0 → inp.now < 2 ^ s.params.tsW → t.res.resTime = inp.now) ∧
        (t.res.resErr ≠ 0 → t.res.resTime = 0) ∧
        t.res.resTime < 2 ^ s.params.tsW) ∧
      (ewRxEnd inp.ew = false → t.res.resTime = s.res.resTime)
end

