-- ==== Sys2Proof/Laws/Bytes.lean ====
section
/-! SUPPORT. Small laws of bytes, frames and the checksum. -/

namespace Sys2Proof.Machine

@[simp] theorem byteAt_cons_zero (b : Byte) (bs : List Byte) : byteAt (b :: bs) 0 = b := rfl

/-- A byte that is there does not depend on the free value. -/
theorem byteAt_of_getElem? {raw : List Byte} {i : Nat} {b : Byte} (h : raw[i]? = some b) : byteAt raw i = b := by
  simp [byteAt, List.getD, h]

@[simp] theorem checksum_nil : checksum [] = 0 := rfl

/-- One more byte is one more addition: what `RXB` and `TXB` do to their accumulators. -/
@[simp] theorem checksum_concat (bs : List Byte) (b : Byte) :
    checksum (bs ++ [b]) = checksumStep (checksum bs) b := by
  simp [checksum]

/-- The length byte of a payload that fits it is no free value. -/
theorem lengthByte_of_le {n : Nat} (h : n ≤ 253) : lengthByte n = BitVec.ofNat 8 (n + 2) := by
  simp [lengthByte, h]

@[simp] theorem lengthByte_twelve : lengthByte 12 = 0x0e#8 := rfl

/-- No length byte, the free one neither, is right for a payload above 253 bytes. -/
theorem lengthByte_ne_of_gt {n : Nat} (h : 253 < n) : (lengthByte n).toNat ≠ n + 2 := by
  have := (lengthByte n).isLt
  omega

@[simp] theorem sensorPayload_length (sub : Bool) (f : SensorFrame) : (sensorPayload sub f).length = 12 := rfl
@[simp] theorem toBytes_length (f : BuiltFrame) : (toBytes f).length = f.payload.length + 4 := by simp [toBytes]
@[simp] theorem wireBytes_length (t : Byte) (ps : List Byte) : (wireBytes t ps).length = ps.length + 4 := by simp [wireBytes]
@[simp] theorem sensorBytes_length (sub : Bool) (f : SensorFrame) : (sensorBytes sub f).length = 16 := by simp [sensorBytes]
@[simp] theorem toBytes_drop (f : BuiltFrame) : (toBytes f).drop 4 = f.payload := rfl
@[simp] theorem wireBytes_drop (t : Byte) (ps : List Byte) : (wireBytes t ps).drop 4 = ps := rfl

/-- The default mask as a list (00_scope.md R6). -/
@[simp] theorem default_mask_toList : Config.defaultParams.sensorMask.toList =
    [0xff#8, 0xff#8, 0xff#8, 0x00#8, 0xff#8, 0xf0#8, 0xff#8, 0xff#8, 0, 0, 0, 0, 0, 0, 0, 0] := rfl

/-- The default match as a list (R6). -/
@[simp] theorem default_match_toList : Config.defaultParams.sensorMatch.toList =
    [0x81#8, 0x0e#8, 0x04#8, 0x00#8, 0x05#8, 0x10#8, 0xa0#8, 0x01#8, 0, 0, 0, 0, 0, 0, 0, 0] := rfl

/-- The default registry has the one entry of R131. -/
@[simp] theorem default_registry : Config.defaultParams.registry = [.sensorReading] := rfl

end Sys2Proof.Machine
end

