-- ==== Sys2Proof/Laws/EventWord.lean ====
section
/-! SUPPORT. The event word taken apart and put together (30_encoding.md R80). -/

namespace Sys2Proof.Machine

@[simp] theorem atPorts_ew (p : Config.Params) (inp : Input) : (atPorts p inp).ew = inp.ew := rfl
@[simp] theorem atPorts_now (p : Config.Params) (inp : Input) : (atPorts p inp).now = inp.now % 2 ^ p.tsW := rfl

/-- A number that fits the `now` port passes unchanged. -/
theorem atPorts_of_fitsTs {p : Config.Params} {inp : Input} (h : fitsTs p inp.now = true) : atPorts p inp = inp := by
  simp only [fitsTs, decide_eq_true_eq] at h
  simp [atPorts, Nat.mod_eq_of_lt h]

/-- What the port passes on fits it. -/
theorem fitsTs_atPorts (p : Config.Params) (inp : Input) : fitsTs p (atPorts p inp).now = true := by
  simp [fitsTs, Nat.mod_lt]

@[simp] theorem ewRst_pack (ev : BitVec 5) (a b c : Byte) : ewRst (packEventWord ev a b c) = ev.getLsbD 4 := by
  simp only [packEventWord, ewRst, BitVec.getLsbD_append]; simp

@[simp] theorem ewTxEnd_pack (ev : BitVec 5) (a b c : Byte) : ewTxEnd (packEventWord ev a b c) = ev.getLsbD 3 := by
  simp only [packEventWord, ewTxEnd, BitVec.getLsbD_append]; simp

@[simp] theorem ewTxValid_pack (ev : BitVec 5) (a b c : Byte) : ewTxValid (packEventWord ev a b c) = ev.getLsbD 2 := by
  simp only [packEventWord, ewTxValid, BitVec.getLsbD_append]; simp

@[simp] theorem ewRxEnd_pack (ev : BitVec 5) (a b c : Byte) : ewRxEnd (packEventWord ev a b c) = ev.getLsbD 1 := by
  simp only [packEventWord, ewRxEnd, BitVec.getLsbD_append]; simp

@[simp] theorem ewRxValid_pack (ev : BitVec 5) (a b c : Byte) : ewRxValid (packEventWord ev a b c) = ev.getLsbD 0 := by
  simp only [packEventWord, ewRxValid, BitVec.getLsbD_append]; simp

@[simp] theorem ewTxType_pack (ev : BitVec 5) (a b c : Byte) : ewTxType (packEventWord ev a b c) = a := by
  apply BitVec.eq_of_getLsbD_eq
  intro i hi
  simp only [packEventWord, ewTxType, BitVec.getLsbD_extractLsb', BitVec.getLsbD_append]
  rw [if_neg (by omega), if_neg (by omega), if_pos (by omega), show 16 + i - 8 - 8 = i by omega]
  simp [hi]

@[simp] theorem ewTxData_pack (ev : BitVec 5) (a b c : Byte) : ewTxData (packEventWord ev a b c) = b := by
  apply BitVec.eq_of_getLsbD_eq
  intro i hi
  simp only [packEventWord, ewTxData, BitVec.getLsbD_extractLsb', BitVec.getLsbD_append]
  simp [hi]

@[simp] theorem ewRxData_pack (ev : BitVec 5) (a b c : Byte) : ewRxData (packEventWord ev a b c) = c := by
  apply BitVec.eq_of_getLsbD_eq
  intro i hi
  simp only [packEventWord, ewRxData, BitVec.getLsbD_extractLsb', BitVec.getLsbD_append]
  simp [hi]

/-- A mask of strobe bits asks about bits 28:24 alone. -/
theorem mask_iff_strobes (x : EventWord) (k m : BitVec 5) :
    x &&& packEventWord k 0 0 0 = packEventWord m 0 0 0 ↔ x.extractLsb' 24 5 &&& k = m := by
  constructor
  · intro h
    have := congrArg (fun y : EventWord => y.extractLsb' 24 5) h
    apply BitVec.eq_of_getLsbD_eq
    intro i hi
    have := congrArg (fun y : BitVec 5 => y.getLsbD i) this
    simp only [packEventWord, BitVec.getLsbD_extractLsb', BitVec.getLsbD_and, BitVec.getLsbD_append, hi] at this
    rw [if_neg (by omega), if_neg (by omega), if_neg (by omega), if_neg (by omega), if_neg (by omega),
      if_neg (by omega), show 24 + i - 8 - 8 - 8 = i by omega] at this
    simpa [hi, BitVec.getLsbD_extractLsb'] using this
  · intro h
    apply BitVec.eq_of_getLsbD_eq
    intro i hi
    subst h
    simp only [packEventWord, BitVec.getLsbD_extractLsb', BitVec.getLsbD_and, BitVec.getLsbD_append]
    by_cases h8 : i < 8 <;> by_cases h16 : i - 8 < 8 <;> by_cases h24 : i - 8 - 8 < 8 <;> simp [h8, h16, h24]
    rw [show 24 + (i - 8 - 8 - 8) = i by omega]
    have : i - 8 - 8 - 8 < 5 := by omega
    simp [this]

/-- Bits 28:24 are the strobe vector. -/
theorem strobes_eq (x : EventWord) : x.extractLsb' 24 5 =
    BitVec.ofBool (ewRst x) ++ BitVec.ofBool (ewTxEnd x) ++ BitVec.ofBool (ewTxValid x) ++ BitVec.ofBool (ewRxEnd x) ++
      BitVec.ofBool (ewRxValid x) := by
  apply BitVec.eq_of_getLsbD_eq
  intro i hi
  simp only [ewRst, ewTxEnd, ewTxValid, ewRxEnd, ewRxValid]
  interval_cases i <;> (simp only [BitVec.getLsbD_append, BitVec.getLsbD_extractLsb']; simp)

end Sys2Proof.Machine
end

