-- ==== Sys2Proof/Laws/State.lean ====
section
/-! SUPPORT. What each operation of Machine/Ops.lean leaves in each field of the state, one lemma a field. -/

namespace Sys2Proof.Machine

@[simp] theorem memWrite_rxbuf_res (a : Nat) (b : Byte) (s : State) : (memWrite .rxbuf a b s).res = s.res := rfl

@[simp] theorem memWrite_rxbuf_tx (a : Nat) (b : Byte) (s : State) : (memWrite .rxbuf a b s).tx = s.tx := rfl

@[simp] theorem memWrite_rxbuf_txh (a : Nat) (b : Byte) (s : State) : (memWrite .rxbuf a b s).txh = s.txh := rfl

@[simp] theorem memWrite_rxbuf_params (a : Nat) (b : Byte) (s : State) : (memWrite .rxbuf a b s).params = s.params := rfl

@[simp] theorem memWrite_rxbuf_script (a : Nat) (b : Byte) (s : State) : (memWrite .rxbuf a b s).script = s.script := rfl

@[simp] theorem memWrite_rxbuf_envIdx (a : Nat) (b : Byte) (s : State) : (memWrite .rxbuf a b s).envIdx = s.envIdx := rfl

@[simp] theorem memWrite_txbuf_rx (a : Nat) (b : Byte) (s : State) : (memWrite .txbuf a b s).rx = s.rx := rfl

@[simp] theorem memWrite_txbuf_res (a : Nat) (b : Byte) (s : State) : (memWrite .txbuf a b s).res = s.res := rfl

@[simp] theorem memWrite_txbuf_txh (a : Nat) (b : Byte) (s : State) : (memWrite .txbuf a b s).txh = s.txh := rfl

@[simp] theorem memWrite_txbuf_params (a : Nat) (b : Byte) (s : State) : (memWrite .txbuf a b s).params = s.params := rfl

@[simp] theorem memWrite_txbuf_script (a : Nat) (b : Byte) (s : State) : (memWrite .txbuf a b s).script = s.script := rfl

@[simp] theorem memWrite_txbuf_envIdx (a : Nat) (b : Byte) (s : State) : (memWrite .txbuf a b s).envIdx = s.envIdx := rfl

@[simp] theorem memWrite_rxbuf_cnt (a : Nat) (b : Byte) (s : State) : (memWrite .rxbuf a b s).rx.cnt = s.rx.cnt := rfl

@[simp] theorem memWrite_rxbuf_acc (a : Nat) (b : Byte) (s : State) : (memWrite .rxbuf a b s).rx.acc = s.rx.acc := rfl

@[simp] theorem memWrite_rxbuf_buf (a : Nat) (b : Byte) (s : State) : (memWrite .rxbuf a b s).rx.buf = s.rx.buf.write a b := rfl

@[simp] theorem memWrite_txbuf_txcnt (a : Nat) (b : Byte) (s : State) : (memWrite .txbuf a b s).tx.txcnt = s.tx.txcnt := rfl

@[simp] theorem memWrite_txbuf_txacc (a : Nat) (b : Byte) (s : State) : (memWrite .txbuf a b s).tx.txacc = s.tx.txacc := rfl

@[simp] theorem memWrite_txbuf_txOvf (a : Nat) (b : Byte) (s : State) : (memWrite .txbuf a b s).tx.txOvf = s.tx.txOvf := rfl

@[simp] theorem memWrite_txbuf_txbuf (a : Nat) (b : Byte) (s : State) : (memWrite .txbuf a b s).tx.txbuf = s.tx.txbuf.write a b := rfl

@[simp] theorem endFrame_cnt (r : Result Message) (s : State) : (endFrame r s).rx.cnt = 0 := rfl

@[simp] theorem endFrame_acc (r : Result Message) (s : State) : (endFrame r s).rx.acc = 0 := rfl

@[simp] theorem endFrame_buf (r : Result Message) (s : State) : (endFrame r s).rx.buf = s.rx.buf := rfl

@[simp] theorem endFrame_res (r : Result Message) (s : State) : (endFrame r s).res = resultRegs r := rfl

@[simp] theorem endFrame_tx (r : Result Message) (s : State) : (endFrame r s).tx = s.tx := rfl

@[simp] theorem endFrame_txh (r : Result Message) (s : State) : (endFrame r s).txh = s.txh := rfl

@[simp] theorem endFrame_params (r : Result Message) (s : State) : (endFrame r s).params = s.params := rfl

@[simp] theorem endFrame_script (r : Result Message) (s : State) : (endFrame r s).script = s.script := rfl

@[simp] theorem endFrame_envIdx (r : Result Message) (s : State) : (endFrame r s).envIdx = s.envIdx := rfl

@[simp] theorem rxEnd_cnt (now : Ts) (s : State) : (rxEnd now s).rx.cnt = 0 := rfl

@[simp] theorem rxEnd_acc (now : Ts) (s : State) : (rxEnd now s).rx.acc = 0 := rfl

@[simp] theorem rxEnd_buf (now : Ts) (s : State) : (rxEnd now s).rx.buf = s.rx.buf := rfl

@[simp] theorem rxEnd_res (now : Ts) (s : State) : (rxEnd now s).res = resultRegs (rxResult now s) := rfl

@[simp] theorem rxEnd_tx (now : Ts) (s : State) : (rxEnd now s).tx = s.tx := rfl

@[simp] theorem rxEnd_txh (now : Ts) (s : State) : (rxEnd now s).txh = s.txh := rfl

@[simp] theorem rxEnd_params (now : Ts) (s : State) : (rxEnd now s).params = s.params := rfl

@[simp] theorem rxEnd_script (now : Ts) (s : State) : (rxEnd now s).script = s.script := rfl

@[simp] theorem rxEnd_envIdx (now : Ts) (s : State) : (rxEnd now s).envIdx = s.envIdx := rfl

@[simp] theorem txEnd_txcnt (t : Byte) (s : State) : (txEnd t s).tx.txcnt = 0 := rfl

@[simp] theorem txEnd_txacc (t : Byte) (s : State) : (txEnd t s).tx.txacc = 0 := rfl

@[simp] theorem txEnd_txOvf (t : Byte) (s : State) : (txEnd t s).tx.txOvf = false := rfl

@[simp] theorem txEnd_txbuf (t : Byte) (s : State) : (txEnd t s).tx.txbuf = s.tx.txbuf := rfl

@[simp] theorem txEnd_txh (t : Byte) (s : State) : (txEnd t s).txh = headerRegs t s.tx := rfl

@[simp] theorem txEnd_rx (t : Byte) (s : State) : (txEnd t s).rx = s.rx := rfl

@[simp] theorem txEnd_res (t : Byte) (s : State) : (txEnd t s).res = s.res := rfl

@[simp] theorem txEnd_params (t : Byte) (s : State) : (txEnd t s).params = s.params := rfl

@[simp] theorem txEnd_script (t : Byte) (s : State) : (txEnd t s).script = s.script := rfl

@[simp] theorem txEnd_envIdx (t : Byte) (s : State) : (txEnd t s).envIdx = s.envIdx := rfl

@[simp] theorem resetRegs_cnt (s : State) : (resetRegs s).rx.cnt = 0 := rfl

@[simp] theorem resetRegs_acc (s : State) : (resetRegs s).rx.acc = 0 := rfl

@[simp] theorem resetRegs_buf (s : State) : (resetRegs s).rx.buf = s.rx.buf := rfl

@[simp] theorem resetRegs_res (s : State) : (resetRegs s).res = ResultRegs.zero := rfl

@[simp] theorem resetRegs_txcnt (s : State) : (resetRegs s).tx.txcnt = 0 := rfl

@[simp] theorem resetRegs_txacc (s : State) : (resetRegs s).tx.txacc = 0 := rfl

@[simp] theorem resetRegs_txOvf (s : State) : (resetRegs s).tx.txOvf = false := rfl

@[simp] theorem resetRegs_txbuf (s : State) : (resetRegs s).tx.txbuf = s.tx.txbuf := rfl

@[simp] theorem resetRegs_txh (s : State) : (resetRegs s).txh = HeaderRegs.zero := rfl

@[simp] theorem resetRegs_params (s : State) : (resetRegs s).params = s.params := rfl

@[simp] theorem resetRegs_script (s : State) : (resetRegs s).script = s.script := rfl

@[simp] theorem resetRegs_envIdx (s : State) : (resetRegs s).envIdx = s.envIdx := rfl

@[simp] theorem rxByte_cnt (b : Byte) (s : State) : (rxByte b s).rx.cnt = BitVec.ofNat 9 (min (s.rx.cnt.toNat + 1) Config.cntSat) := rfl

@[simp] theorem rxByte_acc (b : Byte) (s : State) : (rxByte b s).rx.acc = if s.rx.cnt.toNat ≥ 4 then checksumStep s.rx.acc b else s.rx.acc := rfl

@[simp] theorem rxByte_buf (b : Byte) (s : State) : (rxByte b s).rx.buf = if s.rx.cnt.toNat < Config.bufBytes then s.rx.buf.write s.rx.cnt.toNat b else s.rx.buf := by
  unfold rxByte; split <;> rfl

@[simp] theorem rxByte_res (b : Byte) (s : State) : (rxByte b s).res = s.res := by
  unfold rxByte; split <;> rfl

@[simp] theorem rxByte_tx (b : Byte) (s : State) : (rxByte b s).tx = s.tx := by
  unfold rxByte; split <;> rfl

@[simp] theorem rxByte_txh (b : Byte) (s : State) : (rxByte b s).txh = s.txh := by
  unfold rxByte; split <;> rfl

@[simp] theorem rxByte_params (b : Byte) (s : State) : (rxByte b s).params = s.params := by
  unfold rxByte; split <;> rfl

@[simp] theorem rxByte_script (b : Byte) (s : State) : (rxByte b s).script = s.script := by
  unfold rxByte; split <;> rfl

@[simp] theorem rxByte_envIdx (b : Byte) (s : State) : (rxByte b s).envIdx = s.envIdx := by
  unfold rxByte; split <;> rfl

@[simp] theorem txByte_txcnt (b : Byte) (s : State) : (txByte b s).tx.txcnt = if s.tx.txcnt.toNat < Config.txBufBytes then s.tx.txcnt + 1 else s.tx.txcnt := by
  unfold txByte; split <;> rfl

@[simp] theorem txByte_txacc (b : Byte) (s : State) : (txByte b s).tx.txacc = if s.tx.txcnt.toNat < Config.txBufBytes then checksumStep s.tx.txacc b else s.tx.txacc := by
  unfold txByte; split <;> rfl

@[simp] theorem txByte_txOvf (b : Byte) (s : State) : (txByte b s).tx.txOvf = if s.tx.txcnt.toNat < Config.txBufBytes then s.tx.txOvf else true := by
  unfold txByte; split <;> rfl

@[simp] theorem txByte_txbuf (b : Byte) (s : State) : (txByte b s).tx.txbuf = if s.tx.txcnt.toNat < Config.txBufBytes then s.tx.txbuf.write s.tx.txcnt.toNat b else s.tx.txbuf := by
  unfold txByte; split <;> rfl

@[simp] theorem txByte_rx (b : Byte) (s : State) : (txByte b s).rx = s.rx := by
  unfold txByte; split <;> rfl

@[simp] theorem txByte_res (b : Byte) (s : State) : (txByte b s).res = s.res := by
  unfold txByte; split <;> rfl

@[simp] theorem txByte_txh (b : Byte) (s : State) : (txByte b s).txh = s.txh := by
  unfold txByte; split <;> rfl

@[simp] theorem txByte_params (b : Byte) (s : State) : (txByte b s).params = s.params := by
  unfold txByte; split <;> rfl

@[simp] theorem txByte_script (b : Byte) (s : State) : (txByte b s).script = s.script := by
  unfold txByte; split <;> rfl

@[simp] theorem txByte_envIdx (b : Byte) (s : State) : (txByte b s).envIdx = s.envIdx := by
  unfold txByte; split <;> rfl

end Sys2Proof.Machine
end

