-- ==== Sys2Proof/Laws/Exec.lean ====
section
/-! SUPPORT. `exec` by constructor, and runs of instructions put together and taken apart. -/

namespace Sys2Proof.Machine

@[simp] theorem exec_rst (s : State) : exec .rst s = .next (resetRegs s) := rfl
@[simp] theorem exec_nop (s : State) : exec .nop s = .next s := rfl
@[simp] theorem exec_rxb (b : Byte) (s : State) : exec (.rxb b) s = .next (rxByte b s) := rfl
@[simp] theorem exec_rxe (now : Ts) (s : State) : exec (.rxe now) s = .next (rxEnd now s) := rfl
@[simp] theorem exec_rxbe (b : Byte) (now : Ts) (s : State) : exec (.rxbe b now) s = .next (rxEnd now (rxByte b s)) := rfl
@[simp] theorem exec_txb (b : Byte) (s : State) : exec (.txb b) s = .next (txByte b s) := rfl
@[simp] theorem exec_txe (t : Byte) (s : State) : exec (.txe t) s = .next (txEnd t s) := rfl
@[simp] theorem exec_txbe (b t : Byte) (s : State) : exec (.txbe b t) s = .next (txEnd t (txByte b s)) := rfl
@[simp] theorem exec_sensorTh (f : SensorFrame) (now : Ts) (s : State) : exec (.sensorTh f now) s =
    .next (receiveFrame (sensorBytes false f) (decodeSensor s.params (sensorBytes false f) now) s) := rfl
@[simp] theorem exec_sensorT (f : SensorFrame) (now : Ts) (s : State) : exec (.sensorT f now) s =
    .next (receiveFrame (sensorBytes true f) (decodeSensor s.params (sensorBytes true f) now) s) := rfl
@[simp] theorem exec_generic (typ : Byte) (payload : List Byte) (now : Ts) (s : State) :
    exec (.generic typ payload now) s =
      .next (receiveFrame (wireBytes typ payload) (genericResult (wireBytes typ payload) now) s) := rfl

@[simp] theorem runInstrs_nil (s : State) : runInstrs [] s = .next s := rfl

/-- A run goes on from the state its first instruction answers. -/
theorem runInstrs_cons_next {i : Instr} {is : List Instr} {s t : State} (h : exec i s = .next t) :
    runInstrs (i :: is) s = runInstrs is t := by
  simp [runInstrs, h]

/-- A run of two parts goes on from the state the first part answers. -/
theorem runInstrs_append_next {is js : List Instr} {s t : State} (h : runInstrs is s = .next t) :
    runInstrs (is ++ js) s = runInstrs js t := by
  induction is generalizing s with
  | nil => simp only [runInstrs_nil, Host.Outcome.next.injEq] at h; subst h; rfl
  | cons i is ih =>
    simp only [List.cons_append, runInstrs] at h ⊢
    split at h
    · exact ih h
    · cases h
    · cases h

end Sys2Proof.Machine
end

