-- ==== Sys2Proof/Laws/Mem.lean ====
section
/-! SUPPORT. The laws of the buffers: a read after a write, the canonical form, and storing a whole frame. -/

namespace Sys2Proof.Machine

/-- A write is read back. -/
@[simp] theorem Mem.read_write_same (m : Mem) (a : Nat) (b : Byte) : (m.write a b).read? a = some b := by
  induction m with
  | nil => simp [Mem.write, Mem.read?]
  | cons c m ih =>
    unfold Mem.write
    split
    · simp [Mem.read?]
    · split
      · simp [Mem.read?]
      · rename_i h
        simp [Mem.read?, ih, Ne.symm h]

/-- A write leaves every other address alone. -/
theorem Mem.read_write_other (m : Mem) (a a' : Nat) (b : Byte) (h : a' ≠ a) : (m.write a b).read? a' = m.read? a' := by
  induction m with
  | nil => simp [Mem.write, Mem.read?, Ne.symm h]
  | cons c m ih =>
    unfold Mem.write
    split
    · simp [Mem.read?, Ne.symm h]
    · split
      · rename_i _ hc
        subst hc
        simp [Mem.read?, Ne.symm h]
      · simp [Mem.read?, ih]

/-- Both laws in one: what any address reads as after a write. -/
theorem Mem.read_write (m : Mem) (a a' : Nat) (b : Byte) :
    (m.write a b).read? a' = if a' = a then some b else m.read? a' := by
  split
  · next h => subst h; simp
  · next h => exact Mem.read_write_other m a a' b h

/-- The tail of a canonical buffer is canonical. -/
theorem Mem.wf_tail {c : Host.Cell} {m : Mem} (h : Mem.wf (c :: m) = true) : Mem.wf m = true := by
  cases m with
  | nil => rfl
  | cons d m => simp only [Mem.wf, Bool.and_eq_true] at h; exact h.2

/-- A cell in front of a canonical buffer with a higher first address keeps the form. -/
theorem Mem.wf_cons_write {c : Host.Cell} {m : Mem} {a : Nat} {b : Byte} (h : Mem.wf (c :: m) = true) (hca : c.1 < a)
    (hw : Mem.wf (m.write a b) = true) : Mem.wf (c :: m.write a b) = true := by
  cases m with
  | nil => simp [Mem.write, Mem.wf, hca]
  | cons d m =>
    simp only [Mem.wf, Bool.and_eq_true, decide_eq_true_eq] at h
    simp only [Mem.write] at hw ⊢
    split at hw <;> rename_i h1
    · simp only [if_pos h1, Mem.wf, Bool.and_eq_true, decide_eq_true_eq] at hw ⊢
      exact ⟨hca, hw⟩
    · simp only [if_neg h1]
      split at hw <;> rename_i h2
      · simp only [if_pos h2] at hw ⊢
        simp only [Mem.wf, Bool.and_eq_true, decide_eq_true_eq]
        exact ⟨hca, hw⟩
      · simp only [if_neg h2] at hw ⊢
        simp only [Mem.wf, Bool.and_eq_true, decide_eq_true_eq]
        exact ⟨h.1, hw⟩

/-- A write keeps the canonical form. -/
theorem Mem.write_wf {m : Mem} (a : Nat) (b : Byte) (h : m.wf = true) : (m.write a b).wf = true := by
  induction m with
  | nil => rfl
  | cons c m ih =>
    by_cases h1 : a < c.1
    · simp only [Mem.write, if_pos h1, Mem.wf, Bool.and_eq_true, decide_eq_true_eq]
      exact ⟨h1, h⟩
    · by_cases h2 : a = c.1
      · subst h2
        simp only [Mem.write, if_neg h1, if_true]
        cases m with
        | nil => rfl
        | cons d m => simpa [Mem.wf] using h
      · simp only [Mem.write, if_neg h1, if_neg h2]
        exact Mem.wf_cons_write h (by omega) (ih (Mem.wf_tail h))

/-- The buffers of the state after reset are canonical. -/
theorem reset_mem_wf : State.reset.rx.buf.wf = true ∧ State.reset.tx.txbuf.wf = true := ⟨rfl, rfl⟩

/-- A byte taken keeps the canonical form of RXBUF. -/
theorem rxByte_buf_wf (b : Byte) {s : State} (h : s.rx.buf.wf = true) : (rxByte b s).rx.buf.wf = true := by
  rw [rxByte_buf]; split
  · exact Mem.write_wf _ _ h
  · exact h

/-- A byte accepted keeps the canonical form of TXBUF. -/
theorem txByte_txbuf_wf (b : Byte) {s : State} (h : s.tx.txbuf.wf = true) : (txByte b s).tx.txbuf.wf = true := by
  rw [txByte_txbuf]; split
  · exact Mem.write_wf _ _ h
  · exact h

/-- Storing a frame writes RXBUF and nothing else. -/
theorem storeFrom_frame (raw : List Byte) (i : Nat) (s : State) :
    (storeFrom i raw s).rx.cnt = s.rx.cnt ∧ (storeFrom i raw s).rx.acc = s.rx.acc ∧ (storeFrom i raw s).res = s.res ∧
    (storeFrom i raw s).tx = s.tx ∧ (storeFrom i raw s).txh = s.txh ∧ (storeFrom i raw s).params = s.params ∧
    (storeFrom i raw s).script = s.script ∧ (storeFrom i raw s).envIdx = s.envIdx := by
  induction raw generalizing i s with
  | nil => simp [storeFrom]
  | cons b raw ih =>
    unfold storeFrom
    split
    · simpa using ih (i + 1) (memWrite .rxbuf i b s)
    · exact ih (i + 1) s

/-- What RXBUF reads as after a frame was stored from index `i` on (20_memory.md R51). -/
theorem storeFrom_read (raw : List Byte) (i : Nat) (s : State) (a : Nat) :
    (storeFrom i raw s).rx.buf.read? a =
      if i ≤ a ∧ a < i + raw.length ∧ a < Config.bufBytes then raw[a - i]? else s.rx.buf.read? a := by
  induction raw generalizing i s with
  | nil =>
    simp only [storeFrom, List.length_nil, Nat.add_zero]
    rw [if_neg (by omega)]
  | cons b raw ih =>
    unfold storeFrom
    rw [ih]
    by_cases ha : a = i
    · subst ha
      by_cases hb : a < Config.bufBytes
      · simp [hb]
      · simp [hb]
    · have hbuf : (if i < Config.bufBytes then memWrite .rxbuf i b s else s).rx.buf.read? a = s.rx.buf.read? a := by
        split
        · simp [Mem.read_write_other _ _ _ _ ha]
        · rfl
      rw [hbuf]
      by_cases h1 : i + 1 ≤ a ∧ a < i + 1 + raw.length ∧ a < Config.bufBytes
      · rw [if_pos h1, if_pos (by simp only [List.length_cons]; omega)]
        obtain ⟨k, rfl⟩ := Nat.exists_eq_add_of_le h1.1
        rw [show i + 1 + k - (i + 1) = k by omega, show i + 1 + k - i = k + 1 by omega, List.getElem?_cons_succ]
      · rw [if_neg h1, if_neg (by simp only [List.length_cons]; omega)]

/-- Storing a frame keeps the canonical form. -/
theorem storeFrom_wf (raw : List Byte) (i : Nat) {s : State} (h : s.rx.buf.wf = true) :
    (storeFrom i raw s).rx.buf.wf = true := by
  induction raw generalizing i s with
  | nil => exact h
  | cons b raw ih =>
    unfold storeFrom
    split
    · exact ih (i + 1) (by simpa using Mem.write_wf i b h)
    · exact ih (i + 1) h

end Sys2Proof.Machine
end

