-- ==== Sys2Proof/Laws/PerInstr.lean ====
section
/-! SUPPORT. The family RowMatch: the encoding of every instruction has the fixed bits of its row of
spec/opcode_table.json (30_encoding.md R81, R87). -/

namespace Sys2Proof.Laws

open Sys2Proof.Machine

/-- The event word of `i` has the bits `mtch` under `mask` (R81). -/
def EventRow (i : Instr) (mask mtch : EventWord) : Prop :=
  ∃ inp, encode i = .event inp ∧ inp.ew &&& mask = mtch

/-- The frame of `i`, if `i` is well formed with the default parameters, has 16 bytes and the bytes `mtch` under `mask`
(R87). -/
def FrameRow (i : Instr) (mask mtch : List Byte) : Prop :=
  i.wf Config.defaultParams = true → ∃ raw now, encode i = .frame raw now ∧ raw.length = 16 ∧
    ∀ k, k < 16 → byteAt raw k &&& byteAt mask k = byteAt mtch k

/-- The mask of the rows `SENSOR_TH` and `SENSOR_T`. -/
def sensorRowMask : List Byte := [0xff, 0xff, 0xff, 0x00, 0xff, 0xff, 0xff, 0xff, 0, 0, 0, 0, 0, 0, 0, 0]

/-- The match of those rows, byte 5 given. -/
def sensorRowMatch (b5 : Byte) : List Byte := [0x81, 0x0e, 0x04, 0x00, 0x05, b5, 0xa0, 0x01, 0, 0, 0, 0, 0, 0, 0, 0]

/-- The encoding of an instruction has its row's fixed bits. -/
def RowMatch.Statement : Instr → Prop
  | .rst => EventRow .rst 0x10000000#29 0x10000000#29
  | .nop => EventRow .nop 0x1f000000#29 0x00000000#29
  | .rxb b => EventRow (.rxb b) 0x13000000#29 0x01000000#29
  | .rxe now => EventRow (.rxe now) 0x13000000#29 0x02000000#29
  | .rxbe b now => EventRow (.rxbe b now) 0x13000000#29 0x03000000#29
  | .txb b => EventRow (.txb b) 0x1c000000#29 0x04000000#29
  | .txe t => EventRow (.txe t) 0x1c000000#29 0x08000000#29
  | .txbe b t => EventRow (.txbe b t) 0x1c000000#29 0x0c000000#29
  | .sensorTh f now => FrameRow (.sensorTh f now) sensorRowMask (sensorRowMatch 0x10)
  | .sensorT f now => FrameRow (.sensorT f now) sensorRowMask (sensorRowMatch 0x11)
  | .generic typ payload now =>
    (Instr.generic typ payload now).wf Config.defaultParams = true →
      ∃ raw, encode (.generic typ payload now) = .frame raw now ∧ 4 ≤ raw.length ∧ raw.length ≤ 257

/-- A mask of the strobe bits alone sees the strobe vector alone. -/
theorem packEventWord_strobes (ev k : BitVec 5) (a b c : Byte) :
    packEventWord ev a b c &&& packEventWord k 0 0 0 = packEventWord (ev &&& k) 0 0 0 := by
  apply BitVec.eq_of_getLsbD_eq
  intro i hi
  simp only [packEventWord, BitVec.getLsbD_and, BitVec.getLsbD_append]
  split
  · simp
  · split
    · simp
    · split <;> simp

theorem RowMatch.rst : RowMatch.Statement .rst := ⟨_, rfl, by decide⟩
theorem RowMatch.nop : RowMatch.Statement .nop := ⟨_, rfl, by decide⟩
theorem RowMatch.rxb (b : Byte) : RowMatch.Statement (.rxb b) := ⟨_, rfl, packEventWord_strobes 0b00001 0b10011 0 0 b⟩
theorem RowMatch.rxe (now : Ts) : RowMatch.Statement (.rxe now) := ⟨_, rfl, packEventWord_strobes 0b00010 0b10011 0 0 0⟩
theorem RowMatch.rxbe (b : Byte) (now : Ts) : RowMatch.Statement (.rxbe b now) :=
  ⟨_, rfl, packEventWord_strobes 0b00011 0b10011 0 0 b⟩
theorem RowMatch.txb (b : Byte) : RowMatch.Statement (.txb b) := ⟨_, rfl, packEventWord_strobes 0b00100 0b11100 0 b 0⟩
theorem RowMatch.txe (t : Byte) : RowMatch.Statement (.txe t) := ⟨_, rfl, packEventWord_strobes 0b01000 0b11100 t 0 0⟩
theorem RowMatch.txbe (b t : Byte) : RowMatch.Statement (.txbe b t) :=
  ⟨_, rfl, packEventWord_strobes 0b01100 0b11100 t b 0⟩

/-- The low nibble of byte 5 is the class's, the rest of the byte the field. -/
theorem sub_byte (h : Nibble) (sub : Bool) (h0 : (h ++ subNibble sub) &&& 0xf0#8 = 0x10#8) :
    h ++ subNibble sub = if sub then 0x11#8 else 0x10#8 := by
  revert h sub; decide

/-- A well-formed sensor frame has the constant bytes of its row. -/
theorem sensorBytes_row (sub : Bool) (f : SensorFrame) (h : f.wf Config.defaultParams sub = true) (k : Nat) (hk : k < 16) :
    byteAt (sensorBytes sub f) k &&& byteAt sensorRowMask k =
      byteAt (sensorRowMatch (if sub then 0x11#8 else 0x10#8)) k := by
  simp only [SensorFrame.wf, claimed, default_registry, default_mask_toList, default_match_toList, variantEntry, acceptsSensor, constantsMatch, sensorBytes,
    wireBytes, toBytes, sensorPayload, List.any_cons, List.any_nil, Bool.or_false, Bool.and_eq_true,
    List.cons_append, List.nil_append, List.zip_cons_cons, List.zip_nil_left, List.all_cons, List.all_nil, beq_iff_eq,
    Bool.and_true] at h
  obtain ⟨⟨-, -, h1, h2, -, h4, h5, h6, h7, -⟩, -⟩ := h
  have h5' := sub_byte _ _ h5
  interval_cases k <;>
    simp_all [byteAt, sensorBytes, wireBytes, toBytes, sensorPayload, sensorRowMask, sensorRowMatch] <;>
    (try cases sub <;> decide)

theorem RowMatch.sensorTh (f : SensorFrame) (now : Ts) : RowMatch.Statement (.sensorTh f now) :=
  fun h => ⟨_, _, rfl, by simp, fun k hk => sensorBytes_row false f (Bool.and_eq_true_iff.1 h).1 k hk⟩
theorem RowMatch.sensorT (f : SensorFrame) (now : Ts) : RowMatch.Statement (.sensorT f now) :=
  fun h => ⟨_, _, rfl, by simp, fun k hk => sensorBytes_row true f (Bool.and_eq_true_iff.1 h).1 k hk⟩
theorem RowMatch.generic (typ : Byte) (payload : List Byte) (now : Ts) :
    RowMatch.Statement (.generic typ payload now) := by
  intro h
  refine ⟨_, rfl, by simp, ?_⟩
  simp only [Instr.wf, genericFits, Config.txBufBytes, Bool.and_eq_true, decide_eq_true_eq] at h
  simp only [wireBytes_length]
  omega

end Sys2Proof.Laws
end

