-- ==== Sys2Proof/Laws/Track.lean ====
section
/-! SUPPORT. What one byte does to the bytes a unit has taken, everything receiving a whole frame can do, and what
classification does with a registry of sensor entries. -/

namespace Sys2Proof.Machine

/-- The checksum of a longer sequence, one byte taken off the front. -/
theorem checksum_cons (b : Byte) (bs : List Byte) : checksum (b :: bs) = b + checksum bs := by
  have h (bs : List Byte) (a : Byte) : bs.foldl checksumStep a = a + checksum bs := by
    induction bs generalizing a with
    | nil => simp [checksum]
    | cons b bs ih => simp only [checksum, List.foldl_cons]; rw [ih, ih]; simp [checksumStep, BitVec.add_assoc]
  simp only [checksum, List.foldl_cons]
  rw [h]
  simp [checksumStep, checksum]

/-- A unit with both counters clear has taken nothing. -/
theorem rxTracks_nil {s : State} (h1 : s.rx.cnt = 0) (h2 : s.rx.acc = 0) : RxTracks [] s :=
  ⟨by simp [h1], by simp [h2], fun i _ h => by simp at h⟩

/-- One byte more is taken. -/
theorem rxTracks_rxByte {raw : List Byte} {s : State} (b : Byte) (h : RxTracks raw s) :
    RxTracks (raw ++ [b]) (rxByte b s) := by
  obtain ⟨h1, h2, h3⟩ := h
  refine ⟨?_, ?_, ?_⟩
  · rw [rxByte_cnt, h1]; simp [Config.cntSat]; omega
  · rw [rxByte_acc, h1]
    by_cases h4 : raw.length ≥ 4
    · rw [if_pos (by omega), List.drop_append_of_le_length h4, checksum_concat, h2]
    · rw [if_neg (by omega), h2, List.drop_eq_nil_of_le (by omega), List.drop_eq_nil_of_le (by simp; omega)]
  · intro i hi hl
    rw [rxByte_buf, h1]
    simp only [Config.bufBytes]
    split
    · rw [Mem.read_write, show min raw.length 258 = raw.length by omega]
      split
      · subst i; simp
      · have : i < raw.length := by simp at hl; omega
        rw [h3 i hi this, List.getElem?_append_left this]
    · have : i < raw.length := by omega
      rw [h3 i hi this, List.getElem?_append_left this]

/-- A transmit unit with its registers clear was offered nothing. -/
theorem txTracks_nil {s : State} (h1 : s.tx.txcnt = 0) (h2 : s.tx.txacc = 0) (h3 : s.tx.txOvf = false) : TxTracks [] s :=
  ⟨by simp [h1], by simp [h3], by simp [h2], fun i _ h => by simp at h⟩

/-- One byte more is offered, accepted or dropped. -/
theorem txTracks_txByte {bs : List Byte} {s : State} (b : Byte) (h : TxTracks bs s) :
    TxTracks (bs ++ [b]) (txByte b s) := by
  obtain ⟨h1, h2, h3, h4⟩ := h
  by_cases hl : bs.length < 253
  · have hb : s.tx.txcnt.toNat < Config.txBufBytes := by simp [Config.txBufBytes]; omega
    refine ⟨?_, ?_, ?_, ?_⟩
    · rw [txByte_txcnt, if_pos hb, BitVec.toNat_add, h1]; simp; omega
    · rw [txByte_txOvf, if_pos hb, h2]; simp; omega
    · rw [txByte_txacc, if_pos hb, h3, List.take_of_length_le (by omega), List.take_of_length_le (by simp; omega),
        checksum_concat]
    · intro i hi hi'
      rw [txByte_txbuf, if_pos hb, h1, Nat.min_eq_left (by omega), Mem.read_write]
      split
      · subst i; simp
      · have : i < bs.length := by simp at hi'; omega
        rw [h4 i hi this, List.getElem?_append_left this]
  · have hb : ¬ s.tx.txcnt.toNat < Config.txBufBytes := by simp [Config.txBufBytes]; omega
    refine ⟨?_, ?_, ?_, ?_⟩
    · rw [txByte_txcnt, if_neg hb, h1]; simp; omega
    · rw [txByte_txOvf, if_neg hb]; simp; omega
    · rw [txByte_txacc, if_neg hb, h3, List.take_append_of_le_length (by omega)]
    · intro i hi hi'
      rw [txByte_txbuf, if_neg hb]
      have : i < bs.length := by omega
      rw [h4 i hi this, List.getElem?_append_left this]

/-- Everything receiving a whole frame does. -/
theorem receiveFrame_effect (raw : List Byte) (r : Result Message) (s : State) :
    (receiveFrame raw r s).rx.cnt = 0 ∧ (receiveFrame raw r s).rx.acc = 0 ∧
    (receiveFrame raw r s).res = resultRegs r ∧ (receiveFrame raw r s).tx = s.tx ∧
    (receiveFrame raw r s).txh = s.txh ∧ (receiveFrame raw r s).params = s.params ∧
    (receiveFrame raw r s).script = s.script ∧ (receiveFrame raw r s).envIdx = s.envIdx ∧
    (∀ a, (receiveFrame raw r s).rx.buf.read? a = if a < raw.length ∧ a < 257 then raw[a]? else s.rx.buf.read? a) := by
  obtain ⟨-, -, -, h4, h5, h6, h7, h8⟩ := storeFrom_frame raw 0 s
  refine ⟨rfl, rfl, rfl, h4, h5, h6, h7, h8, fun a => ?_⟩
  have := storeFrom_read raw 0 s a
  simpa [receiveFrame, Config.bufBytes] using this

/-- Every entry a registry can hold is the sensor pair, so a frame is claimed where the sensor predicate accepts it. -/
theorem claimed_iff (p : Config.Params) (raw : List Byte) :
    claimed p raw = true ↔ p.registry ≠ [] ∧ acceptsSensor p raw = true := by
  unfold claimed
  rw [List.any_eq_true]
  constructor
  · rintro ⟨v, hv, h⟩; cases v; exact ⟨List.ne_nil_of_mem hv, h⟩
  · rintro ⟨h1, h2⟩
    obtain ⟨v, hv⟩ := List.exists_mem_of_ne_nil _ h1
    cases v
    exact ⟨_, hv, h2⟩

/-- A frame placed for the next step to end was taken byte for byte. -/
theorem rxTracks_withHeldFrame (raw : List Byte) (now : Ts) (s : State) : RxTracks raw (withHeldFrame raw now s) := by
  refine ⟨?_, rfl, fun i hi hl => ?_⟩
  · simp [withHeldFrame, withInput, Config.cntSat]
  · have := storeFrom_read raw 0 s i
    simp only [withHeldFrame, withInput]
    rw [this]
    simp [Config.bufBytes, hi, hl]

/-- The unit after accepting or dropping the bytes one by one. -/
theorem txTracks_foldl (bs : List Byte) {s : State} (h : TxTracks [] s) :
    TxTracks bs (bs.foldl (fun t b => txByte b t) s) := by
  induction bs using List.reverseRecOn with
  | nil => exact h
  | append_singleton bs b ih => rw [List.foldl_append]; exact txTracks_txByte b ih

end Sys2Proof.Machine
end

