-- ==== Sys2Proof/Tests/Slice0.lean ====
section
/-! SUPPORT. The model's own tests: ill-formed terms refused, decoding from words written out bit by bit, single steps with
the results of 95_test_vectors.md, and for every statement that has hypotheses a witness that meets them. -/

namespace Sys2Proof.Tests

open Sys2Proof Sys2Proof.Machine

/-! ### Frames of 95_test_vectors.md -/

/-- Row S1. -/
def s1 : List Byte := [0x81, 0x06, 0xc9, 0x82, 0x02, 0x01, 0x1f, 0x60]
/-- Row S2. -/
def s2 : List Byte := [0x81, 0x0e, 0x04, 0xc5, 0x05, 0x10, 0xa0, 0x01, 0xb6, 0x40, 0x00, 0x00, 0x00, 0x18, 0x01, 0x00]
/-- Row B7. -/
def b7 : List Byte := [0x81, 0x0e, 0x04, 0x66, 0x05, 0x10, 0xa0, 0x01, 0xb6, 0x40, 0x00, 0x00, 0x00, 0x23, 0x41, 0x56]
/-- Row B11. -/
def b11 : List Byte := [0x81, 0x0e, 0x04, 0x2c, 0x05, 0x10, 0xa0, 0x01, 0xb6, 0x40, 0x00, 0x00, 0x80, 0x00, 0x00, 0x00]
/-- Row B20. -/
def b20 : List Byte := [0x81, 0x0e, 0x04, 0xc6, 0x05, 0x11, 0xa0, 0x01, 0xb6, 0x40, 0x00, 0x00, 0x00, 0x18, 0x01, 0x00]
/-- Row B21. -/
def b21 : List Byte := [0x81, 0x0e, 0x04, 0x61, 0x05, 0x11, 0xa0, 0x01, 0xb6, 0x40, 0x00, 0x00, 0x00, 0x18, 0xf1, 0xab]
/-- Row B23. -/
def b23 : List Byte := [0x81, 0x0e, 0x04, 0x86, 0x05, 0x11, 0xa0, 0x01, 0x00, 0x0a, 0x00, 0x00, 0xa0, 0x25, 0x00, 0x00]
/-- Row B24. -/
def b24 : List Byte := [0x81, 0x0e, 0x04, 0xc7, 0x05, 0x12, 0xa0, 0x01, 0xb6, 0x40, 0x00, 0x00, 0x00, 0x18, 0x01, 0x00]

/-- The fields of S2, read by hand off R73. -/
def s2Fields : SensorFrame where
  typ := 0x04
  const4 := 0x05
  const5hi := 0x1
  const6 := 0xa0
  const7 := 0x01
  addr := 0xb640
  unexamined := 0x0000
  neg := false
  battNew := false
  battLow := false
  statusLow := 0
  n0 := 1
  n1 := 8
  n2 := 0
  n3 := 1
  n4 := 0
  n5 := 0

/-- The fields of B23. -/
def b23Fields : SensorFrame :=
  { s2Fields with addr := 0x000a, neg := true, battLow := true, n0 := 2, n1 := 5, n2 := 0, n3 := 0 }

/-- The state after an instruction; the state itself where it does not answer a next one. -/
def after (i : Instr) (s : State) : State :=
  match exec i s with
  | .next t => t
  | .fault _ => s
  | .refused _ => s

/-- A receive unit with `cnt` and `acc` set. -/
def rxAt (cnt : BitVec 9) (acc : Byte) : State := { State.reset with rx := { cnt := cnt, acc := acc, buf := [] } }

/-- A transmit unit with its working registers set. -/
def txAt (txcnt txacc : Byte) (ovf : Bool) : State :=
  { State.reset with tx := { txcnt := txcnt, txacc := txacc, txOvf := ovf, txbuf := [] } }

/-- The state that holds `raw` and samples `RXE` at time 7 next. -/
def held (raw : List Byte) : State := withHeldFrame raw 7 State.reset

/-- The state after offering the bytes of `p`. -/
def offered (p : List Byte) : State := p.foldl (fun t b => txByte b t) State.reset

/-! ### Ill-formed terms -/

/-- A sensor frame whose byte 4 is 06 is not of the class (row B28). -/
theorem test_wf_sensor_constant : Instr.wf Config.defaultParams (.sensorTh { s2Fields with const4 := 0x06 } 0) = false := by
  decide

/-- A payload of 254 bytes fits no length byte (R72). -/
theorem test_wf_generic_too_long : genericFits (List.replicate 254 0) = false := by
  simp only [genericFits, List.length_replicate]; decide

/-- The frame S2 is no generic frame. -/
theorem test_wf_generic_claimed : Instr.wf Config.defaultParams (.generic 0x04 (s2.drop 4) 0) = false := by
  decide

/-- A `now` of 65 bits fits no port of 64 bits (R83), and one of 64 bits does. -/
theorem test_wf_now : Instr.wf Config.defaultParams (.rxe 0x10000000000000000) = false ∧
    Instr.wf Config.defaultParams (.rxe 0xffffffffffffffff) = true ∧
    Instr.wf Config.defaultParams (.sensorTh s2Fields 0x10000000000000000) = false := by decide

/-! ### Decoding, words written out from R80 and R81: rst, tx_end, tx_valid, rx_end, rx_valid, then the three bytes -/

theorem test_decode_rst : eventsOf { ew := 0b10000000000000000000000000000#29, now := 0 } = [.rst] := by decide
theorem test_decode_nop : eventsOf { ew := 0b00000000000000000000000000000#29, now := 0 } = [.nop] := by decide
/-- rx_valid, rx_data = 1100 1001 (P4, step 4). -/
theorem test_decode_rxb : eventsOf { ew := 0b00001000000000000000011001001#29, now := 0 } = [.rxb 0xc9] := by decide
/-- rx_end (P4, step 10). -/
theorem test_decode_rxe : eventsOf { ew := 0b00010000000000000000000000000#29, now := 2 } = [.rxe 2] := by decide
/-- rx_end, rx_valid, rx_data = 0110 0000 (P4, step 9). -/
theorem test_decode_rxbe : eventsOf { ew := 0b00011000000000000000001100000#29, now := 1 } = [.rxbe 0x60 1] := by decide
/-- tx_valid, tx_data = 0001 1111 (P3, step 4). -/
theorem test_decode_txb : eventsOf { ew := 0b00100000000000001111100000000#29, now := 0 } = [.txb 0x1f] := by decide
/-- tx_end, tx_type = 1100 1001 (P3, step 6). -/
theorem test_decode_txe : eventsOf { ew := 0b01000110010010000000000000000#29, now := 0 } = [.txe 0xc9] := by decide
/-- tx_end, tx_valid, tx_type = 0010 0000, tx_data = 0000 0001. -/
theorem test_decode_txbe : eventsOf { ew := 0b01100001000000000000100000000#29, now := 0 } = [.txbe 0x01 0x20] := by decide
/-- Both groups in one word (P6, step 5). -/
theorem test_decode_both : eventsOf { ew := 0b01111001000000000000100000000#29, now := 4 } =
    [.rxbe 0x00 4, .txbe 0x01 0x20] := by decide
/-- S2 is `SENSOR_TH` (R87). -/
theorem test_decode_sensorTh : decodeFrame Config.defaultParams s2 100 = .ok (.sensorTh s2Fields 100) := by rfl
/-- B23 is `SENSOR_T` (R87). -/
theorem test_decode_sensorT : decodeFrame Config.defaultParams b23 9 = .ok (.sensorT b23Fields 9) := by rfl
/-- S1 is `GENERIC` (R87). -/
theorem test_decode_generic : decodeFrame Config.defaultParams s1 7 =
    .ok (.generic 0xc9 [0x02, 0x01, 0x1f, 0x60] 7) := by rfl
/-- Rows A7, A10, A3: the errors, in their order. -/
theorem test_decode_invalid :
    decodeFrame Config.defaultParams [0x80, 0x07, 0xc9, 0x83, 0x02, 0x01, 0x1f, 0x60] 0 =
      .error (.invalidFrame .badStartByte) ∧
    decodeFrame Config.defaultParams [0x81, 0x05, 0xc9, 0x83, 0x02, 0x01, 0x1f, 0x60] 0 =
      .error (.invalidFrame .lengthMismatch) ∧
    decodeFrame Config.defaultParams [0x81, 0x02] 0 = .error (.invalidFrame .frameTooShort) :=
  ⟨rfl, rfl, rfl⟩
/-- The rows of the opcode table: `SENSOR_TH` from its 16 bytes, byte 0 lowest, and `RXBE` from its event word. -/
theorem test_decode_table :
    decodeTableWord 128 0x00011800000040b601a01005c5040e81 = some (.sensorTh s2Fields 0) ∧
    decodeTableWord 32 0x03000060 = some (.rxbe 0x60 0) ∧ decodeTableWord 32 0x20000000 = none := by decide
/-- The canonical words of R90. -/
theorem test_encode_events :
    encode (.rxbe 0x60 1) = .event { ew := 0x03000060#29, now := 1 } ∧
    encode (.txe 0xc9) = .event { ew := 0x08c90000#29, now := 0 } ∧
    encode (.sensorTh s2Fields 100) = .frame s2 100 := by decide

/-! ### Single steps -/

/-- `RST` in mid-frame (P5, step 7). -/
theorem test_rst : (after .rst (rxAt 5 0xff)).rx.cnt = 0 ∧ (after .rst (rxAt 5 0xff)).rx.acc = 0 := by decide
theorem test_nop : after .nop (rxAt 5 0xff) = rxAt 5 0xff := by decide
/-- Index 4 is the first byte of the payload (P4, step 6); index 3 is not summed (P5, step 5). -/
theorem test_rxb_sum : (after (.rxb 0x02) (rxAt 4 0)).rx.acc = 0x02 ∧ (after (.rxb 0x82) (rxAt 3 0)).rx.acc = 0x00 := by
  decide
/-- The count saturates; byte 258 is not stored (R109). -/
theorem test_rxb_saturates : (after (.rxb 0x01) (rxAt 258 0)).rx.cnt = 258 ∧ (after (.rxb 0x01) (rxAt 257 0)).rx.buf = [] ∧
    (after (.rxb 0x01) (rxAt 256 0)).rx.buf = [(256, 0x01)] := by decide
/-- P1: S1 ended at time 7. -/
theorem test_rxe_generic : (after (.rxe 7) (held s1)).res =
    { ResultRegs.zero with
      resValid := true, resKind := 1, resType := 0xc9, resChk := 0x82, resPaylen := 4, resTime := 7 } := by
  decide
/-- An end with nothing received is `FrameTooShort` (P4, step 10). -/
theorem test_rxe_empty : (after (.rxe 2) State.reset).res = { ResultRegs.zero with resValid := true, resErr := 1 } := by
  decide
/-- The last byte of S1 with the end, the checksum off by one (P4, step 9). -/
theorem test_rxbe_checksum :
    (after (.rxbe 0x60 1) (held [0x81, 0x06, 0xc9, 0x83, 0x02, 0x01, 0x1f])).res =
      { ResultRegs.zero with resValid := true, resErr := 4 } := by decide
/-- The last byte of S2 with the end (P2, step 17). -/
theorem test_rxbe_sensor : (after (.rxbe 0x00 100) (held (s2.take 15))).res =
    { ResultRegs.zero with
      resValid := true, resKind := 2, resType := 0x04, resChk := 0xc5, resPaylen := 12, resTime := 100
      sAddr := 0xb640, sTdig := 0x118, sTemp := 0x0076, sHumValid := true } := by decide
/-- P7, byte 253 accepted and byte 254 dropped. -/
theorem test_txb_full : (after (.txb 252) (txAt 252 0x8a false)).tx.txcnt = 253 ∧
    (after (.txb 252) (txAt 252 0x8a false)).tx.txacc = 0x86 ∧
    (after (.txb 253) (txAt 253 0x86 false)).tx = { txcnt := 253, txacc := 0x86, txOvf := true, txbuf := [] } := by decide
/-- P3, step 6. -/
theorem test_txe : (after (.txe 0xc9) (txAt 4 0x82 false)).txh =
    { txhValid := true, txhErr := 0, txhLen := 0x06, txhType := 0xc9, txhChk := 0x82, txhN := 4 } := by decide
/-- P7: the error after a dropped byte. -/
theorem test_txe_overflow : (after (.txe 0xc9) (txAt 253 0x86 true)).txh = { HeaderRegs.zero with txhErr := 8 } ∧
    (after (.txe 0xc9) (txAt 253 0x86 true)).tx.txOvf = false := by decide
/-- P6, step 5: the bytes to send. -/
theorem test_txbe : bytesToSend (after (.txbe 0x01 0x20) State.reset) = [0x81, 0x03, 0x20, 0x01, 0x01] := by decide
/-- Row B7, all six nibbles different. -/
theorem test_sensorTh : decodeFrame Config.defaultParams b7 0 =
      .ok (.sensorTh { s2Fields with n0 := 2, n1 := 3, n2 := 4, n3 := 1, n4 := 5, n5 := 6 } 0) ∧
    (after (.sensorTh { s2Fields with n0 := 2, n1 := 3, n2 := 4, n3 := 1, n4 := 5, n5 := 6 } 0) State.reset).res.sTemp =
      0x007b ∧
    (after (.sensorTh { s2Fields with n0 := 2, n1 := 3, n2 := 4, n3 := 1, n4 := 5, n5 := 6 } 0) State.reset).res.sHum =
      0x0234 := ⟨rfl, by decide, by decide⟩
/-- Row B3: the first temperature digit f. -/
theorem test_sensorTh_digit : (after (.sensorTh { s2Fields with n3 := 0xf } 0) State.reset).res =
    { ResultRegs.zero with resValid := true, resErr := 6 } := by decide
/-- Row B23: the cold sensor without humidity (P5, step 23). -/
theorem test_sensorT : (after (.sensorT b23Fields 9) State.reset).res =
    { ResultRegs.zero with
      resValid := true, resKind := 2, resType := 0x04, resChk := 0x86, resPaylen := 12, resTime := 9
      sAddr := 0x000a, sSub := true, sNeg := true, sBattLow := true, sTdig := 0x025, sTemp := 0xffe7 } := by decide
/-- Row B21 under both values of `HUM_CHECK_WHEN_ABSENT`. -/
theorem test_sensorT_hum_check :
    (after (.sensorT { s2Fields with n2 := 0xf, n4 := 0xa, n5 := 0xb } 0) State.reset).res.resErr = 0 ∧
    (after (.sensorT { s2Fields with n2 := 0xf, n4 := 0xa, n5 := 0xb } 0)
      { State.reset with params := { Config.defaultParams with humCheckWhenAbsent := true } }).res.resErr = 6 := by decide
/-- Row A15: the shortest valid frame. -/
theorem test_generic : (after (.generic 0xc9 [] 0) State.reset).res =
      { ResultRegs.zero with resValid := true, resKind := 1, resType := 0xc9 } ∧
    (after (.generic 0xc9 [] 0) State.reset).rx.buf = [(0, 0x81), (1, 0x02), (2, 0xc9), (3, 0x00)] := by decide
/-- Row B24: sub-type 2 is generic. -/
theorem test_generic_subtype : (after (.rxe 0) (held b24)).res.resKind = 1 ∧ (after (.rxe 0) (held b24)).res.resErr = 0 ∧
    (after (.rxe 0) (held b24)).res.resChk = 0xc7 := by decide
/-- The rendering of S2 (R166, R167) and of B23. -/
theorem test_sensor_name : sensorName (after (.sensorTh s2Fields 0) State.reset) = "HMS100TF_b640" ∧
    sensorName (after (.sensorT b23Fields 9) State.reset) = "HMS100T_000a" := by decide

/-! ### Witnesses: for every statement with hypotheses, a state and operands that meet all of them together -/

/-- A step's script: the input `RXE` at time 7. -/
def rxeInput : Input := { ew := 0x02000000#29, now := 7 }

/-- The state after S1's payload was built. -/
def built : State := after (.txe 0xc9) (offered [0x02, 0x01, 0x1f, 0x60])

/-- `EventTableSelectsEvents`: a word for each row, and the override. -/
theorem test_wit_EventTableSelectsEvents :
    Instr.rst ∈ eventsOf { ew := 0x1fffffff#29, now := 0 } ∧ Instr.nop ∈ eventsOf { ew := 0x00ffffff#29, now := 0 } ∧
    Instr.rxb 0xff ∈ eventsOf { ew := 0x0dffffff#29, now := 0 } ∧ Instr.rxe 3 ∈ eventsOf { ew := 0x0effffff#29, now := 3 } ∧
    Instr.rxbe 0xff 3 ∈ eventsOf { ew := 0x0fffffff#29, now := 3 } ∧ Instr.txb 0xff ∈ eventsOf { ew := 0x07ffffff#29, now := 0 } ∧
    Instr.txe 0xff ∈ eventsOf { ew := 0x0bffffff#29, now := 0 } ∧
    Instr.txbe 0xff 0xff ∈ eventsOf { ew := 0x0fffffff#29, now := 3 } := by decide

/-- `IgnoredFieldsAreIgnored`: two words with `rst`; two `RXB` words and a `NOP` word that differ in ignored fields alone. -/
theorem test_wit_IgnoredFieldsAreIgnored :
    eventsOf { ew := 0x1fffffff#29, now := 1 } = eventsOf { ew := 0x10000000#29, now := 2 } ∧
    eventsOf { ew := 0x01ffff60#29, now := 1 } = eventsOf { ew := 0x01000060#29, now := 2 } ∧
    (ewRst 0x01ffff60#29 = ewRst 0x01000060#29 ∧ ewTxEnd 0x01ffff60#29 = ewTxEnd 0x01000060#29 ∧
      ewTxValid 0x01ffff60#29 = ewTxValid 0x01000060#29 ∧ ewRxEnd 0x01ffff60#29 = ewRxEnd 0x01000060#29 ∧
      ewRxValid 0x01ffff60#29 = ewRxValid 0x01000060#29 ∧ ewRxData 0x01ffff60#29 = ewRxData 0x01000060#29 ∧
      ewTxType 0x01ffff60#29 ≠ ewTxType 0x01000060#29) ∧
    encode (.txb 0x1f) = .event { ew := 0x04001f00#29, now := 0 } := by decide

/-- `DecodeEncodeAgree`: each frame class has well-formed instructions. -/
theorem test_wit_DecodeEncodeAgree : Instr.wf Config.defaultParams (.rxbe 0xff 7) = true ∧
    Instr.wf Config.defaultParams (.sensorTh s2Fields 7) = true ∧
    Instr.wf Config.defaultParams (.sensorT b23Fields 7) = true ∧
    Instr.wf Config.defaultParams (.generic 0xc9 [0x02, 0x01, 0x1f, 0x60] 7) = true := by decide

/-- The same at the longest payload, 253 bytes (row A23's length). -/
theorem test_wit_generic_longest : Instr.wf Config.defaultParams (.generic 0xc9 (List.replicate 253 0) 7) = true := by
  have h (p : Config.Params) (raw : List Byte) (hl : raw.length ≠ 16) : claimed p raw = false := by
    by_contra hc
    have := (claimed_iff p raw).1 (by simpa using hc)
    simp [acceptsSensor] at this
    exact hl this.2.1.1
  rw [Instr.wf, genericUnclaimed, h _ _ (by simp only [wireBytes, toBytes, List.length_append, List.length_replicate]; decide)]
  simp only [genericFits, List.length_replicate]
  decide

/-- `EncodeOfDecodedFrameAgrees`, `ValidFramesCharacterized`, `RoundTripLaws`: valid and invalid frames. -/
theorem test_wit_EncodeOfDecodedFrameAgrees : validate s1 = .ok () ∧ validate s2 = .ok () ∧ validate b23 = .ok () ∧
    validate [] = .error .frameTooShort ∧ s1[2]? = some 0xc9 ∧ ([0x02, 0x01, 0x1f, 0x60] : List Byte).length ≤ 253 ∧
    (BuiltFrame.mk 0xc9 0x82 [0x02, 0x01, 0x1f, 0x60]).checksum = checksum [0x02, 0x01, 0x1f, 0x60] :=
  ⟨rfl, rfl, rfl, rfl, rfl, by decide, rfl⟩

/-- `StepRunsDecodedEvents`: a script with one event, one with two, and none. -/
theorem test_wit_StepRunsDecodedEvents : (held s1).script = [rxeInput] ∧ eventsOf rxeInput = [.rxe 7] ∧
    eventsOf { ew := 0x05007f81#29, now := 0 } = [.rxb 0x81, .txb 0x7f] ∧
    exec (.rxb 0x81) State.reset = .next (after (.rxb 0x81) State.reset) ∧ State.reset.script = [] :=
  ⟨by decide, by decide, by decide, rfl, rfl⟩

/-- `StepRunsDecodedEvents`: a well-formed event whose encoding is the script's next input. -/
theorem test_wit_StepRunsEncodedEvent : (Instr.rxe 7).wf (held s1).params = true ∧ encode (.rxe 7) = .event rxeInput ∧
    (held s1).script = [rxeInput] ∧ eventsOf (atPorts (held s1).params rxeInput) = [.rxe 7] := by decide

/-- A block whose `now` port has 8 bits, holding S1, with `RXE` and the number 0x107 at that port next. -/
def narrow : State :=
  { held s1 with params := { Config.defaultParams with tsW := 8 }, script := [{ ew := 0x02000000#29, now := 0x107 }] }

/-- `TimeStampIsSampledAtFrameEnd`: a step that ends a good frame, an empty one, and a step that ends none, on ports of 8 and
of 64 bits; the 8-bit port passes the low 8 bits of 0x107 on (R83). -/
theorem test_wit_TimeStampIsSampledAtFrameEnd :
    ewRst 0x02000000#29 = false ∧ ewRxEnd 0x02000000#29 = true ∧ ewRxEnd 0x01000081#29 = false ∧
    (match step narrow with
      | .next t => t.res.resErr = 0 ∧ t.res.resTime = 0x07
      | _ => False) ∧
    (match step { narrow with params := Config.defaultParams } with
      | .next t => t.res.resErr = 0 ∧ t.res.resTime = 0x107
      | _ => False) ∧
    (match step { narrow with rx := State.reset.rx } with
      | .next t => t.res.resErr = 1 ∧ t.res.resTime = 0
      | _ => False) := by
  refine ⟨by decide, by decide, by decide, ?_, ?_, ?_⟩ <;> exact ⟨by decide, by decide⟩

/-- `RstClearsRegistersOnly`: a word with `rst` and one without. -/
theorem test_wit_RstClearsRegistersOnly : ewRst 0x1fffffff#29 = true ∧ ewRst 0x0fffffff#29 = false := by decide

/-- `NopLeavesEverything`: a script whose next word has no strobe. -/
theorem test_wit_NopLeavesEverything :
    (withInput { ew := 0x00ffffff#29, now := 1 } State.reset).script = [{ ew := 0x00ffffff#29, now := 1 }] ∧
    (0x00ffffff#29 : EventWord).extractLsb' 24 5 = 0 := by decide

/-- `RxbTakesOneByte`: each side of each boundary of `cnt`. -/
theorem test_wit_RxbTakesOneByte :
    ((rxAt 3 0).rx.cnt.toNat < 4 ∧ 4 ≤ (rxAt 4 0).rx.cnt.toNat) ∧
    ((rxAt 256 0).rx.cnt.toNat < 257 ∧ 257 ≤ (rxAt 257 0).rx.cnt.toNat ∧ 257 ≤ (rxAt 258 0).rx.cnt.toNat) ∧
    (257 : Nat) ≠ (rxAt 256 0).rx.cnt.toNat := by decide

/-- `RxeChecksInOrder`: each branch is taken by some held frame (rows A4, A6, A8, A16, S1). -/
theorem test_wit_RxeChecksInOrder :
    (after (.rxe 0) (held [0x81, 0x02, 0x00])).res = errorRegs .frameTooShort ∧
    (after (.rxe 0) (held (0x80 :: s1.drop 1))).res = errorRegs .badStartByte ∧
    (after (.rxe 0) (held (0x81 :: 0x07 :: s1.drop 2))).res = errorRegs .lengthMismatch ∧
    (after (.rxe 0) (held [0x81, 0x02, 0xc9, 0x01])).res = errorRegs .checksumMismatch ∧
    (after (.rxe 0) (held s1)).res.resErr = 0 := by decide

/-- `RxbeIsByteThenEnd`: the boundary of the buffer. -/
theorem test_wit_RxbeIsByteThenEnd :
    (rxAt 256 0).rx.cnt.toNat < 257 ∧ 257 ≤ (rxAt 257 0).rx.cnt.toNat ∧ (0 : Nat) ≠ (rxAt 256 0).rx.cnt.toNat := by decide

/-- `EndOfTrackedFrameGivesClassify`, `PayloadReadout`: a frame taken, and what may follow its end. -/
theorem test_wit_RxTracks : RxTracks s1 (held s1) ∧ RxTracks [] State.reset ∧
    (∀ i ∈ [Instr.txb 1, .nop, .txe 2], isTransmit i = true ∨ i = .nop) :=
  ⟨rxTracks_withHeldFrame _ _ _, rxTracks_nil rfl rfl, by simp [isTransmit]⟩

/-- `PayloadReadout`: an end without error, with an index on each side of the payload length, and one with an error. -/
theorem test_wit_PayloadReadout : (after (.rxe 7) (held s1)).res.resErr = 0 ∧
    plData 3 (after (.rxe 7) (held s1)) = .ok 0x60 ∧
    plData 4 (after (.rxe 7) (held s1)) = .error .payloadWindowClosed ∧
    (after (.rxe 7) State.reset).res.resErr ≠ 0 := ⟨by decide, rfl, rfl, by decide⟩

/-- `StreamingEqualsClassify`, `NoTraceOfEarlierFrames`: idle units with different buffers, and what may stand inside a frame. -/
theorem test_wit_StreamingEqualsClassify :
    ((after (.rxe 7) (held s1)).rx.cnt = 0 ∧ (after (.rxe 7) (held s1)).rx.acc = 0) ∧
    (State.reset.rx.cnt = 0 ∧ State.reset.rx.acc = 0) ∧ (after (.rxe 7) (held s1)).params = State.reset.params ∧
    (after (.rxe 7) (held s1)).rx.buf ≠ State.reset.rx.buf ∧
    (∀ i ∈ [Instr.rxb 0x81, .nop, .txb 1, .txbe 1 2, .rxb 0x02], insideFrame i = true) ∧
    (∃ e, fromBytes [] 0 = .error e) ∧ (∃ f, fromBytes s1 7 = .ok f) :=
  ⟨by decide, by decide, by decide, by decide, by decide, ⟨_, rfl⟩, ⟨_, rfl⟩⟩

/-- `OverlongInputFails`: 258 bytes taken, and exactly 257. -/
theorem test_wit_OverlongInputFails :
    (RxTracks (List.replicate 258 0x81) (held (List.replicate 258 0x81)) ∧ 257 < (List.replicate 258 (0x81 : Byte)).length) ∧
    (RxTracks (List.replicate 257 0x00) (held (List.replicate 257 0x00)) ∧
      257 ≤ (List.replicate 257 (0x00 : Byte)).length) := by
  refine ⟨⟨rxTracks_withHeldFrame _ _ _, ?_⟩, rxTracks_withHeldFrame _ _ _, ?_⟩ <;> simp only [List.length_replicate] <;> decide

/-- `ChecksumLaws`: rows A17 and A18. -/
theorem test_wit_ChecksumLaws : ([0x01, 0x02, 0x03] : List Byte).Perm [0x03, 0x02, 0x01] := by decide

/-- `ValidateChecksInOrder`: three bytes and four. -/
theorem test_wit_ValidateChecksInOrder : ([0x81, 0x02, 0x00] : List Byte).length < 4 ∧
    ([0x81, 0x02, 0xc9, 0x00] : List Byte) = 0x81 :: 0x02 :: 0xc9 :: 0x00 :: [] := by decide

/-- `ErrorsRecordTheirCodeOnly`: an error on each side. -/
theorem test_wit_ErrorsRecordTheirCodeOnly : (after (.rxe 7) State.reset).res.resErr ≠ 0 ∧
    (after (.rxbe 0 7) State.reset).res.resErr ≠ 0 ∧ (after (.txe 1) (txAt 253 0 true)).txh.txhErr ≠ 0 ∧
    (after (.txbe 1 1) (txAt 253 0 false)).txh.txhErr ≠ 0 := by decide

/-- `UnclaimedFramesAreGeneric`, `UnsupportedSubtypeUnreachable`: a valid frame of another length, and one of sub-type 2. -/
theorem test_wit_UnclaimedFramesAreGeneric : validate s1 = .ok () ∧ claimed Config.defaultParams s1 = false ∧
    s1.length ≠ 16 ∧ validate b24 = .ok () ∧ 1 < (subOf b24).toNat := ⟨rfl, by decide, by decide, rfl, by decide⟩

/-- `UnclaimedFramesAreGeneric`, `SensorPredicateChecks`: a wrong constant at index 4 (row B28), and none wrong in S2. -/
theorem test_wit_SensorPredicateChecks :
    byteAt (0x81 :: 0x0e :: 0x04 :: 0xc6 :: 0x06 :: s2.drop 5) (4 : Fin 16) &&& Config.defaultParams.sensorMask[(4 : Fin 16)] ≠
      Config.defaultParams.sensorMatch[(4 : Fin 16)] ∧
    (∀ i : Fin 16, byteAt s2 i &&& Config.defaultParams.sensorMask[i] = Config.defaultParams.sensorMatch[i]) := by decide

/-- `FramerErrors`: payloads of 254 and 253 bytes, a tag of two bytes and one of none, and a state without code 7. -/
theorem test_wit_FramerErrors : 253 < (List.replicate 254 (0 : Byte)).length ∧ (List.replicate 253 (0 : Byte)).length ≤ 253 ∧
    ([0xc9, 0x00] : List Byte).length ≠ 1 ∧ ([] : List Byte).length ≠ 1 ∧ State.reset.res.resErr ≠ 7 ∧
    State.reset.txh.txhErr ≠ 7 := by
  simp only [List.length_replicate]; decide

/-- `ClaimedFramesAreDecoded`: valid and claimed. -/
theorem test_wit_ClaimedFramesAreDecoded : validate s2 = .ok () ∧ claimed Config.defaultParams s2 = true := ⟨rfl, by decide⟩

/-- `FirstAcceptingEntryWins`: an entry that refuses before one that accepts. -/
theorem test_wit_FirstAcceptingEntryWins :
    (∀ x ∈ [Entry.mk (fun _ => false) (fun _ _ => .error .invalidDigit)], x.accepts s2 = false) ∧
    (variantEntry Config.defaultParams .sensorReading).accepts s2 = true := ⟨by simp, by decide⟩

/-- `DefaultSensorPredicate`: a sequence on each side. -/
theorem test_wit_DefaultSensorPredicate : acceptsSensor Config.defaultParams b20 = true ∧
    acceptsSensor Config.defaultParams b24 = false := by decide

/-- `SensorThReading`, `SensorTReading`: digits 9 and a, and the parameter both ways. -/
theorem test_wit_SensorReadings :
    (after (.sensorTh { s2Fields with n0 := 9, n1 := 9, n2 := 9, n3 := 9, n4 := 9, n5 := 9 } 0) State.reset).res.sTemp = 999 ∧
    (after (.sensorTh { s2Fields with n2 := 0xa } 0) State.reset).res = errorRegs .invalidDigit ∧
    (after (.sensorT { b23Fields with n2 := 0xa } 0) State.reset).res.resErr = 0 ∧
    (after (.sensorT { b23Fields with n1 := 0xa } 0) State.reset).res = errorRegs .invalidDigit := by decide

/-- `GenericFrameReading`: payloads of 253 and of 254 bytes. -/
theorem test_wit_GenericFrameReading : (List.replicate 253 (0 : Byte)).length ≤ 253 ∧
    253 < (List.replicate 254 (0 : Byte)).length := by
  simp only [List.length_replicate]; decide

/-- `TemperatureRegisterExact`, `NegativeZeroIsZero`: decimal digits, and row B11. -/
theorem test_wit_NegativeZeroIsZero : decimal ⟨9, 9, 9⟩ = true ∧
    ∃ r, decodeSensor Config.defaultParams b11 0 = .ok (.sensor r) ∧ r.neg = true ∧ r.tdig = ⟨0, 0, 0⟩ :=
  ⟨by decide, _, rfl, rfl, rfl⟩

/-- `FrameClassesAreStreamedFrames`, `StateReflectsHistory`: an idle unit, and a well-formed frame of each class. -/
theorem test_wit_FrameClassesAreStreamedFrames : State.reset.rx.cnt = 0 ∧ State.reset.rx.acc = 0 ∧
    (Instr.sensorTh s2Fields 100).wf State.reset.params = true ∧ encode (.sensorTh s2Fields 100) = .frame s2 100 ∧
    (Instr.sensorT b23Fields 9).wf State.reset.params = true ∧ encode (.sensorT b23Fields 9) = .frame b23 9 ∧
    (Instr.generic 0xc9 (s1.drop 4) 7).wf State.reset.params = true ∧
    encode (.generic 0xc9 (s1.drop 4) 7) = .frame s1 7 := by decide

/-- `DeviceIdDigits`: an address with its id. -/
theorem test_wit_DeviceIdDigits : deviceId 0x3640#16 = "3640" ∧ '6' ∈ deviceIdDigits 0x3640#16 := by decide

/-- `TxbAcceptsOneByte`, `TxbeIsByteThenEnd`: each side of the boundary. -/
theorem test_wit_TxbAcceptsOneByte : (txAt 252 0 false).tx.txcnt.toNat < 253 ∧ 253 ≤ (txAt 253 0 false).tx.txcnt.toNat ∧
    (0 : Nat) ≠ (txAt 252 0 false).tx.txcnt.toNat := by decide

/-- `TxeBuildsHeader`: with and without a dropped byte, at the largest count. -/
theorem test_wit_TxeBuildsHeader : (txAt 253 0 true).tx.txOvf = true ∧ (txAt 253 0 false).tx.txOvf = false ∧
    (txAt 253 0 false).tx.txcnt.toNat ≤ 253 := by decide

/-- `StreamingEqualsEncode`, `LoopbackReturnsTheFrame`: an idle block, and payloads of 253 and 254 bytes. -/
theorem test_wit_StreamingEqualsEncode :
    (State.reset.tx.txcnt = 0 ∧ State.reset.tx.txacc = 0 ∧ State.reset.tx.txOvf = false) ∧
    (State.reset.rx.cnt = 0 ∧ State.reset.rx.acc = 0) ∧
    (∀ i ∈ [Instr.txb 0x02, .nop, .rxb 0x81, .rxe 1, .txb 0x01], insidePayload i = true) ∧
    (∀ n, ∀ i ∈ List.replicate n (Instr.txb 0), insidePayload i = true) ∧
    ((List.replicate 253 (Instr.txb 0)).filterMap offeredByte).length ≤ 253 ∧
    253 < ((List.replicate 254 (Instr.txb 0)).filterMap offeredByte).length := by
  have h (n : Nat) : ((List.replicate n (Instr.txb 0)).filterMap offeredByte).length = n := by
    induction n with
    | zero => rfl
    | succ n ih => rw [List.replicate_succ, List.filterMap_cons]; simpa [offeredByte] using ih
  refine ⟨by decide, by decide, by decide, fun n i hi => ?_, by rw [h], by rw [h]; decide⟩
  rw [List.eq_of_mem_replicate hi]; rfl

/-- `LoopbackReturnsTheFrame`: the payload of S1 comes back as a generic frame. -/
theorem test_wit_LoopbackReturnsTheFrame : bytesToSend built = s1 ∧ ([0x02, 0x01, 0x1f, 0x60] : List Byte).length ≤ 253 ∧
    (after (.rxe 7) (held s1)).res.resKind = 1 := by decide

/-- `HalvesShareNothing`, `ReceiveAndTransmitCommute`, `StatusOutputs`, `ResultWindow`: an event of each kind. -/
theorem test_wit_HalvesShareNothing : isReceive (.rxbe 1 2) = true ∧ isTransmit (.txbe 1 2) = true ∧
    endsFrame (.rxbe 1 2) = true ∧ endsFrame (.rxb 1) = false ∧ Instr.rxb 1 ≠ .rst ∧
    (after (.rxe 7) (held s1)).res.resValid = true := by decide

/-- `TransmitReadout`: a payload taken, what may follow its end, an index on each side of its length, and a failed end. -/
theorem test_wit_TransmitReadout :
    TxTracks [0x02, 0x01, 0x1f, 0x60] (offered [0x02, 0x01, 0x1f, 0x60]) ∧
    (∀ i ∈ [Instr.rxb 1, .nop, .rxe 2], isReceive i = true ∨ i = .nop) ∧
    built.txh.txhValid = true ∧ txrData 3 built = .ok 0x60 ∧ txrData 4 built = .error .transmitWindowClosed ∧
    TxTracks (List.replicate 254 0) (offered (List.replicate 254 0)) ∧
    (after (.txe 1) (txAt 253 0 true)).txh.txhValid = false :=
  ⟨txTracks_foldl _ (txTracks_nil rfl rfl rfl), by simp [isReceive], by decide, rfl, rfl,
    txTracks_foldl _ (txTracks_nil rfl rfl rfl), by decide⟩

/-- `MacrosAgree`: a frame that is not empty. -/
theorem test_wit_MacrosAgree : s1 ≠ [] := by decide

/-- S1's payload built, one byte of a frame taken, and `RXE` sampled next. -/
def midFrame : State := withInput rxeInput (after (.rxb 0x81) built)

/-- What `midFrame` holds. -/
theorem test_midFrame : midFrame.rx = { cnt := 1, acc := 0, buf := [(0, 0x81)] } ∧ midFrame.res = ResultRegs.zero ∧
    midFrame.tx =
      { txcnt := 0, txacc := 0, txOvf := false, txbuf := [(0, 0x02), (1, 0x01), (2, 0x1f), (3, 0x60)] } ∧
    midFrame.txh =
      { txhValid := true, txhErr := 0, txhLen := 0x06, txhType := 0xc9, txhChk := 0x82, txhN := 4 } ∧
    midFrame.script = [rxeInput] ∧ midFrame.params = Config.defaultParams := by decide

/-- `StepKeepsInvariant`, `BytesToSendAreValid`: a state with the invariant, whose step answers, its transmit window open. -/
theorem test_wit_StepKeepsInvariant : Machine.Inv midFrame ∧
    step midFrame = .next (after (.rxe 7) { midFrame with script := [] }) ∧ transmitOpen midFrame = true := by
  obtain ⟨hrx, hres, htx, htxh, hscript, -⟩ := test_midFrame
  refine ⟨⟨⟨by rw [hrx]; rfl, ?_⟩, ⟨by rw [htx]; rfl, ?_⟩, by decide, ?_, fun _ => by decide, by decide, by decide, ?_,
    by decide, ?_, by decide, ?_, fun h => absurd h (by decide), fun _ => ⟨by decide, by decide⟩⟩, rfl, by decide⟩
  · intro a ha
    rw [hrx]
    simp only [Config.bufBytes] at ha
    simp [Mem.read?]; omega
  · intro a ha
    rw [htx]
    simp only [Config.txBufBytes] at ha
    simp [Mem.read?, show ¬ 0 = a by omega, show ¬ 1 = a by omega, show ¬ 2 = a by omega, show ¬ 3 = a by omega]
  · intro i hi _
    rw [hrx] at hi ⊢
    simp at hi; subst hi; rfl
  · intro i hi
    rw [htx] at hi
    simp at hi
  · rw [hres]
    exact ⟨fun _ => rfl, fun h => (by cases h), by decide, .inl rfl, fun h => absurd rfl h,
      fun _ => ⟨rfl, rfl, rfl, rfl, rfl, rfl, rfl, rfl, rfl, rfl⟩, by decide, fun h => (by cases h), by decide, by decide,
      fun _ => ⟨rfl, rfl⟩⟩
  · rw [htxh]
    exact ⟨fun _ => ⟨rfl, by decide, by decide⟩, fun h => (by cases h)⟩

/-- `StateReflectsHistory`: a history that is not empty, and a state that reflects it. -/
theorem test_wit_StateReflectsHistory : Reflects
    { rxBytes := [0x81], rxLast := none, txBytes := [], txLast := some (0xc9, [0x02, 0x01, 0x1f, 0x60]) } midFrame ∧
    (Instr.rxe 7).wf midFrame.params = true := by
  obtain ⟨hrx, hres, htx, htxh, -⟩ := test_midFrame
  refine ⟨⟨⟨by decide, by decide, ?_⟩, txTracks_nil (by rw [htx]) (by rw [htx]) (by rw [htx]), hres, by rw [htxh]; decide,
    fun h => (by cases h), ?_⟩, rfl⟩
  · intro i _ hi
    rw [hrx]
    simp at hi; subst hi; rfl
  · intro _ x hx i _ hi
    cases hx
    rw [htx]
    simp only [List.length_cons, List.length_nil] at hi
    interval_cases i <;> rfl

end Sys2Proof.Tests
end

section
/-! SUPPORT. The step in terms of the script's next input (00_scope.md R11), what the event word of an encoded event decodes
to, and the proofs of the statements about the step and `NOP`. -/

namespace Sys2Proof.Machine

/-! ### Running a list of one or two events -/

/-- A run of one event is that event, whatever it answers. -/
@[simp] theorem runInstrs_singleton (i : Instr) (s : State) : runInstrs [i] s = exec i s := by
  cases h : exec i s <;> simp [runInstrs, h]

/-- A run of two events is the second on the state that the first answers (30_encoding.md R82). -/
theorem runInstrs_pair_next {i j : Instr} {s t : State} (h : exec i s = .next t) : runInstrs [i, j] s = exec j t := by
  rw [runInstrs_cons_next h, runInstrs_singleton]

/-! ### What a step samples -/

/-- With an input in the script, the step performs its events on the state without it (00_scope.md R11). -/
theorem step_of_script_cons {s : State} {inp : Input} {rest : List Input} (h : s.script = inp :: rest) :
    step s = runInstrs (eventsOf (atPorts s.params inp)) { s with script := rest } := by
  simp [step, clock, sample, h]

/-- With an empty script, the step performs the events of a free input (10_state.md R35). -/
theorem step_of_script_nil {s : State} (h : s.script = []) :
    step s = runInstrs (eventsOf (atPorts s.params (Config.envInput s.envIdx))) { s with envIdx := s.envIdx + 1 } := by
  simp [step, clock, sample, h]

/-- An input that decodes to one event: the step is that event. -/
theorem step_of_eventsOf_singleton {s : State} {inp : Input} {rest : List Input} {i : Instr} (h : s.script = inp :: rest)
    (hi : eventsOf (atPorts s.params inp) = [i]) : step s = exec i { s with script := rest } := by
  rw [step_of_script_cons h, hi, runInstrs_singleton]

/-! ### What an event word decodes to -/

/-- A word whose five strobes are 0 selects no event of either group, so it is `NOP` (30_encoding.md R81). -/
theorem eventsOf_of_strobes_zero {inp : Input} (h : inp.ew.extractLsb' 24 5 = 0) : eventsOf inp = [.nop] := by
  have bit (i : Nat) (hi : i < 5) : inp.ew.getLsbD (24 + i) = false := by
    have hbit := congrArg (·.getLsbD i) h
    simpa [BitVec.getLsbD_extractLsb', hi] using hbit
  have hrst : ewRst inp.ew = false := bit 4 (by decide)
  have htxEnd : ewTxEnd inp.ew = false := bit 3 (by decide)
  have htxValid : ewTxValid inp.ew = false := bit 2 (by decide)
  have hrxEnd : ewRxEnd inp.ew = false := bit 1 (by decide)
  have hrxValid : ewRxValid inp.ew = false := bit 0 (by decide)
  simp [eventsOf, receiveEvent, transmitEvent, hrst, htxEnd, htxValid, hrxEnd, hrxValid]

/-- The canonical event word of an event decodes to that event alone (R81, R90). -/
theorem eventsOf_of_encode {i : Instr} {inp : Input} (h : encode i = .event inp) : eventsOf inp = [i] := by
  cases i with
  | rst | nop | rxb | rxe | rxbe | txb | txe | txbe =>
    cases h
    simp [eventsOf, receiveEvent, transmitEvent]
  | sensorTh | sensorT | generic => cases h

/-- The time stamp that the encoding of a well-formed event presents fits the `now` port (R83, R90). -/
theorem fitsTs_of_encode {p : Config.Params} {i : Instr} {inp : Input} (hwf : i.wf p = true) (h : encode i = .event inp) :
    fitsTs p inp.now = true := by
  cases i with
  | rst | nop | rxb | txb | txe | txbe =>
    cases h
    simp [fitsTs]
  | rxe | rxbe =>
    cases h
    exact hwf
  | sensorTh | sensorT | generic => cases h

/-- The ports pass the encoding of a well-formed event on unchanged, so it still decodes to that event. -/
theorem eventsOf_atPorts_of_encode {p : Config.Params} {i : Instr} {inp : Input} (hwf : i.wf p = true)
    (h : encode i = .event inp) : eventsOf (atPorts p inp) = [i] := by
  rw [atPorts_of_fitsTs (fitsTs_of_encode hwf h), eventsOf_of_encode h]

/-! ### The statements -/

/-- Settles O6, from the two cases of the script and the decoding of an encoded event. -/
theorem stepRunsDecodedEvents : Obligations.StepRunsDecodedEvents := by
  intro s
  refine ⟨fun _ _ hs => step_of_script_cons hs, step_of_script_nil, fun _ _ _ hs hi => step_of_eventsOf_singleton hs hi,
    fun inp rest i j t hs hij ht => ?_,
    fun _ _ _ hs hwf henc => step_of_eventsOf_singleton hs (eventsOf_atPorts_of_encode hwf henc)⟩
  rw [step_of_script_cons hs, hij, runInstrs_pair_next ht]

/-- Settles O10: without a strobe the one event of the step is `NOP`, whose meaning is the identity. -/
theorem nopLeavesEverything : Obligations.NopLeavesEverything := by
  refine ⟨exec_nop, fun s inp rest hs hstrobes => ?_⟩
  have hnop : eventsOf (atPorts s.params inp) = [.nop] := eventsOf_of_strobes_zero (by simpa using hstrobes)
  rw [step_of_eventsOf_singleton hs hnop, exec_nop]

end Sys2Proof.Machine
end

section
/-! SUPPORT. The bytes a buffer holds, and a frame end on the bytes taken (10_state.md R37, 40_frame_rx.md R108). -/

namespace Sys2Proof.Machine

/-! ### Bytes read from a buffer that holds them -/

@[simp] theorem bufBytes_length (m : Mem) (n : Nat) : (bufBytes m n).length = n := by simp [bufBytes]

/-- A byte that the buffer holds is the byte of the sequence. -/
theorem HoldsBytes.bufByte_eq {n : Nat} {m : Mem} {bs : List Byte} (h : HoldsBytes n m bs) {i : Nat} (hn : i < n)
    (hi : i < bs.length) : bufByte m i = byteAt bs i := by
  simp [bufByte, byteAt, h i hn hi, List.getD]

/-- A sequence that fits the buffer that holds it is what the buffer's first bytes are. -/
theorem HoldsBytes.bufBytes_eq {n : Nat} {m : Mem} {bs : List Byte} (h : HoldsBytes n m bs) (hn : bs.length ≤ n) :
    bufBytes m bs.length = bs := by
  refine List.ext_getElem (by simp) fun i _ hi => ?_
  simp only [bufBytes, List.getElem_map, List.getElem_range]
  rw [h.bufByte_eq (by omega) hi, byteAt_of_getElem? (List.getElem?_eq_getElem hi)]

/-- Every byte that the buffer holds was written. -/
theorem HoldsBytes.isSome_read {n : Nat} {m : Mem} {bs : List Byte} (h : HoldsBytes n m bs) {i : Nat} (hn : i < n)
    (hi : i < bs.length) : (m.read? i).isSome = true := by
  rw [h i hn hi]
  simp [hi]

/-- A written buffer holds its own first bytes. -/
theorem holdsBytes_bufBytes {n k : Nat} {m : Mem} (h : ∀ i, i < k → (m.read? i).isSome = true) :
    HoldsBytes n m (bufBytes m k) := by
  intro i _ hi
  have hik : i < k := by simpa using hi
  obtain ⟨b, hb⟩ := Option.isSome_iff_exists.1 (h i hik)
  simp [bufBytes, bufByte, hik, hb]

/-- What a buffer holds does not depend on bytes of the sequence beyond the buffer. -/
theorem HoldsBytes.append_right {n : Nat} {m : Mem} {bs : List Byte} (h : HoldsBytes n m bs) (hn : n ≤ bs.length)
    (cs : List Byte) : HoldsBytes n m (bs ++ cs) := by
  intro i hi _
  rw [h i hi (by omega), List.getElem?_append_left (by omega)]

/-! ### A frame end on the bytes taken -/

/-- The checks on the registers are the checks of `validate` on the bytes taken (40_frame_rx.md R106, R108). A saturated
count and a sequence of more than 257 bytes both exceed every length byte. -/
theorem rxResult_of_rxTracks {raw : List Byte} {s : State} (now : Ts) (h : RxTracks raw s) :
    rxResult now s = classify s.params raw now := by
  obtain ⟨hcnt, hacc, hbuf⟩ := h
  unfold rxResult classify validate heldFrame
  by_cases hshort : raw.length < 4
  · rw [if_pos (by omega), if_pos hshort]
  have hlen : (byteAt raw 1).toNat + 2 ≠ s.rx.cnt.toNat ↔ (byteAt raw 1).toNat ≠ raw.length - 2 := by
    have := (byteAt raw 1).isLt
    omega
  rw [if_neg (by omega), if_neg hshort, hbuf.bufByte_eq (i := 0) (by omega) (by omega),
    hbuf.bufByte_eq (i := 1) (by omega) (by omega), hbuf.bufByte_eq (i := 3) (by omega) (by omega), hacc]
  simp only [hlen]
  split
  · rfl
  · split
    · rfl
    · split
      · rfl
      next hlength _ =>
        have := (byteAt raw 1).isLt
        rw [hcnt, show min raw.length 258 = raw.length by omega, hbuf.bufBytes_eq (by omega)]

/-- Settles O14: either end finds the bytes taken, and the checks on the registers are `classify`'s on those bytes. -/
theorem endOfTrackedFrameGivesClassify : Obligations.EndOfTrackedFrameGivesClassify := by
  intro raw s h
  have ended (now : Ts) {raw : List Byte} {u : State} (hu : RxTracks raw u) :
      (rxEnd now u).res = resultRegs (classify u.params raw now) ∧ RxTracks [] (rxEnd now u) :=
    ⟨by rw [rxEnd_res, rxResult_of_rxTracks now hu], rxTracks_nil rfl rfl⟩
  refine ⟨fun now => ⟨_, exec_rxe now s, ended now h⟩, fun b now => ⟨_, exec_rxbe b now s, ?_⟩⟩
  simpa using ended now (rxTracks_rxByte b h)

end Sys2Proof.Machine
end

section
/-! SUPPORT. The state each instruction leads to, and the bytes a receive unit has taken through a run (10_state.md R37). -/

namespace Sys2Proof.Machine

/-! ### Every instruction answers a next state -/

/-- The state an instruction leads to: every one answers a next state (60_exceptions.md R200). -/
def nextState (i : Instr) (s : State) : State :=
  match i with
  | .rst => resetRegs s
  | .nop => s
  | .rxb b => rxByte b s
  | .rxe now => rxEnd now s
  | .rxbe b now => rxEnd now (rxByte b s)
  | .txb b => txByte b s
  | .txe t => txEnd t s
  | .txbe b t => txEnd t (txByte b s)
  | .sensorTh f now => receiveFrame (sensorBytes false f) (decodeSensor s.params (sensorBytes false f) now) s
  | .sensorT f now => receiveFrame (sensorBytes true f) (decodeSensor s.params (sensorBytes true f) now) s
  | .generic typ payload now => receiveFrame (wireBytes typ payload) (genericResult (wireBytes typ payload) now) s

/-- `exec` never faults and never refuses (R200). -/
theorem exec_eq_nextState (i : Instr) (s : State) : exec i s = .next (nextState i s) := by
  cases i <;> rfl

/-- A run performs its instructions to the end. -/
theorem runInstrs_eq_foldl (is : List Instr) (s : State) :
    runInstrs is s = .next (is.foldl (fun t i => nextState i t) s) := by
  induction is generalizing s with
  | nil => rfl
  | cons i is ih => rw [runInstrs_cons_next (exec_eq_nextState i s), ih, List.foldl_cons]

@[simp] theorem receiveFrame_cnt (raw : List Byte) (r : Result Message) (s : State) :
    (receiveFrame raw r s).rx.cnt = 0 := rfl

@[simp] theorem receiveFrame_acc (raw : List Byte) (r : Result Message) (s : State) :
    (receiveFrame raw r s).rx.acc = 0 := rfl

@[simp] theorem receiveFrame_res (raw : List Byte) (r : Result Message) (s : State) :
    (receiveFrame raw r s).res = resultRegs r := rfl

@[simp] theorem receiveFrame_tx (raw : List Byte) (r : Result Message) (s : State) :
    (receiveFrame raw r s).tx = s.tx := by
  obtain ⟨-, -, -, htx, -⟩ := storeFrom_frame raw 0 s
  exact htx

@[simp] theorem receiveFrame_txh (raw : List Byte) (r : Result Message) (s : State) :
    (receiveFrame raw r s).txh = s.txh := by
  obtain ⟨-, -, -, -, htxh, -⟩ := storeFrom_frame raw 0 s
  exact htxh

@[simp] theorem receiveFrame_params (raw : List Byte) (r : Result Message) (s : State) :
    (receiveFrame raw r s).params = s.params := by
  obtain ⟨-, -, -, -, -, hparams, -⟩ := storeFrom_frame raw 0 s
  exact hparams

/-- No instruction writes the parameters (00_scope.md R6). -/
@[simp] theorem nextState_params (i : Instr) (s : State) : (nextState i s).params = s.params := by
  cases i <;> simp [nextState]

/-- What acts on the receive unit alone leaves the transmit half (20_memory.md R60). -/
theorem nextState_of_isReceive {i : Instr} (h : isReceive i = true) (s : State) :
    (nextState i s).tx = s.tx ∧ (nextState i s).txh = s.txh := by
  cases i with
  | rxb | rxe | rxbe | sensorTh | sensorT | generic => simp [nextState]
  | rst | nop | txb | txe | txbe => cases h

/-- What acts on the transmit unit alone leaves the receive half (R60). -/
theorem nextState_of_isTransmit {i : Instr} (h : isTransmit i = true) (s : State) :
    (nextState i s).rx = s.rx ∧ (nextState i s).res = s.res := by
  cases i with
  | txb | txe | txbe => simp [nextState]
  | rst | nop | rxb | rxe | rxbe | sensorTh | sensorT | generic => cases h

/-! ### The bytes a receive unit has taken, through a run -/

/-- The bytes taken are a matter of the receive unit alone. -/
theorem RxTracks.of_rx_eq {raw : List Byte} {s t : State} (h : RxTracks raw s) (heq : t.rx = s.rx) : RxTracks raw t :=
  ⟨heq ▸ h.cnt, heq ▸ h.acc, heq ▸ h.buf⟩

/-- After any instruction the unit has taken the bytes of the history with that instruction added. -/
theorem rxTracks_nextState {h : History} {s : State} (i : Instr) (hs : RxTracks h.rxBytes s) :
    RxTracks (historyAfter h i).rxBytes (nextState i s) := by
  cases i with
  | rst | rxe | rxbe | sensorTh | sensorT | generic => exact rxTracks_nil rfl rfl
  | nop => exact hs
  | rxb b => exact rxTracks_rxByte b hs
  | txb | txe | txbe => exact hs.of_rx_eq (nextState_of_isTransmit rfl s).1

/-- After a run the unit has taken the bytes of the history with the run added, and the parameters are as they were. -/
theorem rxTracks_run (is : List Instr) {h : History} {s : State} (hs : RxTracks h.rxBytes s) :
    RxTracks (is.foldl historyAfter h).rxBytes (is.foldl (fun t i => nextState i t) s) ∧
      (is.foldl (fun t i => nextState i t) s).params = s.params := by
  induction is generalizing h s with
  | nil => exact ⟨hs, rfl⟩
  | cons i is ih => simpa using ih (rxTracks_nextState i hs)

/-- A run from an idle unit, ended by `RXE`, latches what `classify` answers on the bytes of the run's own history. -/
theorem res_of_idle_run {s : State} (is : List Instr) (now : Ts) (hcnt : s.rx.cnt = 0) (hacc : s.rx.acc = 0) :
    ∃ t, runInstrs (is ++ [.rxe now]) s = .next t ∧
      t.res = resultRegs (classify s.params (is.foldl historyAfter .empty).rxBytes now) := by
  have hidle : RxTracks History.empty.rxBytes s := rxTracks_nil hcnt hacc
  obtain ⟨htracks, hparams⟩ := rxTracks_run is hidle
  refine ⟨_, by rw [runInstrs_append_next (runInstrs_eq_foldl is s), runInstrs_singleton, exec_rxe], ?_⟩
  rw [rxEnd_res, rxResult_of_rxTracks now htracks, hparams]

/-- Settles O53: either result is `classify` of the run's bytes, in which nothing of the first state but its parameters
stands. -/
theorem noTraceOfEarlierFrames : Obligations.NoTraceOfEarlierFrames := by
  intro s s' is now hparams hcnt hacc hcnt' hacc'
  obtain ⟨t, ht, hres⟩ := res_of_idle_run is now hcnt hacc
  obtain ⟨t', ht', hres'⟩ := res_of_idle_run is now hcnt' hacc'
  exact ⟨t, t', ht, ht', by rw [hres, hres', hparams]⟩

end Sys2Proof.Machine
end

section
/-! SUPPORT. Reset, and the status outputs as functions of the state and the events of a word (10_state.md R28, R31, R36). -/

namespace Sys2Proof.Machine

/-! ### Reset and the status outputs -/

/-- Settles O9: `RST` clears the registers, and the launch state is clear with empty buffers. -/
theorem launchStateIsAfterReset : Obligations.LaunchStateIsAfterReset :=
  ⟨fun s => ⟨_, exec_rst s, rfl, rfl, rfl, rfl, rfl, rfl, rfl⟩, rfl, rfl, rfl, fun _ => ⟨rfl, rfl⟩⟩

/-- Every result, an error too, is latched as a valid one (10_state.md R25, R28). -/
@[simp] theorem resultRegs_resValid (r : Result Message) : (resultRegs r).resValid = true := by
  rcases r with _ | _ | _ <;> rfl

/-- Every frame end sets `res_valid` (R28). -/
theorem resValid_of_endsFrame {i : Instr} (h : endsFrame i = true) (s : State) : (nextState i s).res.resValid = true := by
  cases i with
  | rxe | rxbe | sensorTh | sensorT | generic => simp [nextState]
  | rst | nop | rxb | txb | txe | txbe => cases h

/-- What is neither a frame end nor reset leaves the result registers (70_reset_and_hazards.md R235). -/
theorem res_of_not_endsFrame {i : Instr} (h : endsFrame i = false) (hrst : i ≠ .rst) (s : State) :
    (nextState i s).res = s.res := by
  cases i with
  | nop | rxb | txb | txe | txbe => simp [nextState]
  | rst => exact absurd rfl hrst
  | rxe | rxbe | sensorTh | sensorT | generic => cases h

/-- What may be among the events of a word: `RST` alone, or one event of each group, or `NOP` where there is neither
(30_encoding.md R81, R82). -/
theorem mem_eventsOf_iff {i : Instr} {inp : Input} : i ∈ eventsOf inp ↔
    (ewRst inp.ew = true ∧ i = .rst) ∨
    (ewRst inp.ew = false ∧ (receiveEvent inp = some i ∨ transmitEvent inp = some i ∨
      (receiveEvent inp = none ∧ transmitEvent inp = none ∧ i = .nop))) := by
  unfold eventsOf
  cases ewRst inp.ew
  · cases receiveEvent inp <;> cases transmitEvent inp <;> simp [eq_comm]
  · simp

/-- The receive event of a word is one of `RXB`, `RXE`, `RXBE`, its end strobe set in the last two (R81). -/
theorem receiveEvent_cases {inp : Input} {i : Instr} (h : receiveEvent inp = some i) :
    (i = .rxb (ewRxData inp.ew) ∧ ewRxEnd inp.ew = false) ∨ (i = .rxe inp.now ∧ ewRxEnd inp.ew = true) ∨
    (i = .rxbe (ewRxData inp.ew) inp.now ∧ ewRxEnd inp.ew = true) := by
  unfold receiveEvent at h
  split at h <;> simp_all

/-- The transmit event of a word is one of `TXB`, `TXE`, `TXBE`, its end strobe set in the last two (R81). -/
theorem transmitEvent_cases {inp : Input} {i : Instr} (h : transmitEvent inp = some i) :
    (i = .txb (ewTxData inp.ew) ∧ ewTxEnd inp.ew = false) ∨ (i = .txe (ewTxType inp.ew) ∧ ewTxEnd inp.ew = true) ∨
    (i = .txbe (ewTxData inp.ew) (ewTxType inp.ew) ∧ ewTxEnd inp.ew = true) := by
  unfold transmitEvent at h
  split at h <;> simp_all

/-- `res_strobe` is 1 exactly where an event of the word ends a frame (R28). -/
theorem resStrobe_iff (inp : Input) : resStrobe inp.ew = true ↔ ∃ i ∈ eventsOf inp, endsFrame i = true := by
  simp only [resStrobe, Bool.and_eq_true, Bool.not_eq_true']
  constructor
  · rintro ⟨hend, hrst⟩
    have hsome : ∃ i, receiveEvent inp = some i ∧ endsFrame i = true := by
      cases hvalid : ewRxValid inp.ew <;> simp [receiveEvent, hend, hvalid, endsFrame]
    obtain ⟨i, hi, hends⟩ := hsome
    exact ⟨i, mem_eventsOf_iff.2 (.inr ⟨hrst, .inl hi⟩), hends⟩
  · rintro ⟨i, hi, hends⟩
    rcases mem_eventsOf_iff.1 hi with ⟨-, rfl⟩ | ⟨hrst, hi | hi | ⟨-, -, rfl⟩⟩
    · cases hends
    · rcases receiveEvent_cases hi with ⟨rfl, -⟩ | ⟨-, hend⟩ | ⟨-, hend⟩
      · cases hends
      · exact ⟨hend, hrst⟩
      · exact ⟨hend, hrst⟩
    · rcases transmitEvent_cases hi with ⟨rfl, -⟩ | ⟨rfl, -⟩ | ⟨rfl, -⟩ <;> cases hends
    · cases hends

/-- `tx_strobe` is 1 exactly where an event of the word is `TXE` or `TXBE` (R31). -/
theorem txStrobe_iff (inp : Input) : txStrobe inp.ew = true ↔
    (∃ t, Instr.txe t ∈ eventsOf inp) ∨ ∃ b t, Instr.txbe b t ∈ eventsOf inp := by
  have htxe (t : Byte) : Instr.txe t ∈ eventsOf inp ↔ ewRst inp.ew = false ∧ transmitEvent inp = some (.txe t) := by
    rw [mem_eventsOf_iff]
    unfold receiveEvent; split <;> simp
  have htxbe (b t : Byte) : Instr.txbe b t ∈ eventsOf inp ↔
      ewRst inp.ew = false ∧ transmitEvent inp = some (.txbe b t) := by
    rw [mem_eventsOf_iff]
    unfold receiveEvent; split <;> simp
  simp only [txStrobe, htxe, htxbe, transmitEvent]
  cases ewTxEnd inp.ew <;> cases ewTxValid inp.ew <;> simp

/-- Settles O43: frame ends set `res_valid`, other events leave the result registers, and each output is read off its
definition. -/
theorem statusOutputs : Obligations.StatusOutputs := by
  refine ⟨fun i s => ⟨_, exec_eq_nextState i s, fun hends => resValid_of_endsFrame hends s, fun hvalid hrst => ?_⟩,
    fun s inp => ⟨resStrobe_iff inp, txStrobe_iff inp, by simp [outputs, rxBusy],
      by simp [outputs, rxOvf], by simp [outputs, txBusy]⟩⟩
  cases hends : endsFrame i
  · rw [res_of_not_endsFrame hends hrst, hvalid]
  · exact resValid_of_endsFrame hends s

end Sys2Proof.Machine
end

section
/-! SUPPORT. A state that reflects a history, half by half (10_state.md R37), and the answer of each frame class. -/

namespace Sys2Proof.Machine

/-! ### What a frame class's constructor answers is what `classify` answers -/

/-- The wire bytes of a payload that fits the length byte are a valid frame (43_frame_tx.md R183). -/
theorem validate_wireBytes (t : Byte) {payload : List Byte} (h : payload.length ≤ 253) :
    validate (wireBytes t payload) = .ok () := by
  have hlen : (byteAt (wireBytes t payload) 1).toNat = (wireBytes t payload).length - 2 := by
    have hbyte : byteAt (wireBytes t payload) 1 = lengthByte payload.length := rfl
    rw [hbyte, lengthByte_of_le h, wireBytes_length, BitVec.toNat_ofNat]
    omega
  have hstart : byteAt (wireBytes t payload) 0 = Config.startMarker := rfl
  have hchk : byteAt (wireBytes t payload) 3 = checksum ((wireBytes t payload).drop 4) := rfl
  unfold validate
  rw [if_neg (by simp), if_neg (not_not_intro hstart), if_neg (not_not_intro hlen), if_neg (not_not_intro hchk)]

/-- A frame that the registry claims gets the sensor constructor, whatever that answers (41_dispatch.md R130). -/
theorem classifyValid_of_claimed {p : Config.Params} {raw : List Byte} (h : claimed p raw = true) (now : Ts) :
    classifyValid p raw now = decodeSensor p raw now := by
  obtain ⟨hne, haccepts⟩ := (claimed_iff p raw).1 h
  obtain ⟨_ | _, rest, hreg⟩ := List.exists_cons_of_ne_nil hne
  simp [classifyValid, hreg, classifyValidWith, variantEntry, haccepts]

/-- A frame that no entry claims is generic (R130, R134). -/
theorem classifyValid_of_not_claimed {p : Config.Params} {raw : List Byte} (h : claimed p raw = false) (now : Ts) :
    classifyValid p raw now = .ok (.generic (frameOf raw now)) := by
  have hno : ∀ vs : List Variant, (vs.any fun v => (variantEntry p v).accepts raw) = false →
      classifyValidWith (vs.map (variantEntry p)) raw now = .ok (.generic (frameOf raw now)) := by
    intro vs hvs
    induction vs with
    | nil => rfl
    | cons v vs ih =>
      obtain ⟨hv, hrest⟩ := Bool.or_eq_false_iff.1 (List.any_cons ▸ hvs)
      simp [classifyValidWith, hv, ih hrest]
  exact hno p.registry h

/-- The sensor constructor's answer on a claimed frame of a class is that of `classify` (30_encoding.md R87). -/
theorem classify_sensorBytes {p : Config.Params} {sub : Bool} {f : SensorFrame} (h : f.wf p sub = true) (now : Ts) :
    classify p (sensorBytes sub f) now = decodeSensor p (sensorBytes sub f) now := by
  have hvalid : validate (sensorBytes sub f) = .ok () := validate_wireBytes f.typ (by simp)
  rw [classify, hvalid]
  exact classifyValid_of_claimed h now

/-- The generic constructor's answer on an unclaimed frame is that of `classify` (R87, 41_dispatch.md R134). -/
theorem classify_wireBytes_of_unclaimed {p : Config.Params} {typ : Byte} {payload : List Byte}
    (hfits : genericFits payload = true) (hunclaimed : genericUnclaimed p typ payload = true) (now : Ts) :
    classify p (wireBytes typ payload) now = genericResult (wireBytes typ payload) now := by
  have hvalid : validate (wireBytes typ payload) = .ok () := validate_wireBytes typ (of_decide_eq_true hfits)
  have hnot : claimed p (wireBytes typ payload) = false := by simpa [genericUnclaimed] using hunclaimed
  rw [classify, hvalid, genericResult, fromBytes, hvalid]
  exact classifyValid_of_not_claimed hnot now

/-! ### The receive half of a state that reflects a history -/

/-- The receive half of `Reflects`: the bytes `raw` since the last end, `last` the frame ended before them (10_state.md
R37 (i) to (iii), (v)). -/
structure RxReflects (raw : List Byte) (last : Option (List Byte × Ts)) (s : State) : Prop where
  tracks : RxTracks raw s
  res : s.res = resultOf s.params last
  held : raw = [] → ∀ x, last = some x → HoldsBytes 257 s.rx.buf x.1

/-- The transmit half of `Reflects` (R37 (iv), (v)). -/
structure TxReflects (bs : List Byte) (last : Option (Byte × List Byte)) (s : State) : Prop where
  tracks : TxTracks bs s
  txh : s.txh = headerOf last
  held : bs = [] → ∀ x, last = some x → HoldsBytes 253 s.tx.txbuf x.2

/-- A state reflects a history in its two halves, which share nothing (20_memory.md R60). -/
theorem reflects_iff {h : History} {s : State} :
    Reflects h s ↔ RxReflects h.rxBytes h.rxLast s ∧ TxReflects h.txBytes h.txLast s :=
  ⟨fun ⟨rx, tx, res, txh, rxHeld, txHeld⟩ => ⟨⟨rx, res, rxHeld⟩, ⟨tx, txh, txHeld⟩⟩,
    fun ⟨⟨rx, res, rxHeld⟩, ⟨tx, txh, txHeld⟩⟩ => ⟨rx, tx, res, txh, rxHeld, txHeld⟩⟩

/-- A transmit event leaves the receive half (R60). -/
theorem RxReflects.of_isTransmit {raw : List Byte} {last : Option (List Byte × Ts)} {s : State} {i : Instr}
    (h : RxReflects raw last s) (hi : isTransmit i = true) : RxReflects raw last (nextState i s) := by
  obtain ⟨hrx, hres⟩ := nextState_of_isTransmit hi s
  exact ⟨h.tracks.of_rx_eq hrx, by rw [hres, nextState_params, h.res], hrx ▸ h.held⟩

/-- Reset leaves the receive half of the empty history (70_reset_and_hazards.md R230). -/
theorem rxReflects_resetRegs (s : State) : RxReflects [] none (resetRegs s) :=
  ⟨rxTracks_nil rfl rfl, rfl, by simp⟩

/-- A byte taken leaves the last result and ends the hold on its frame. -/
theorem RxReflects.rxByte {raw : List Byte} {last : Option (List Byte × Ts)} {s : State} (b : Byte)
    (h : RxReflects raw last s) : RxReflects (raw ++ [b]) last (rxByte b s) :=
  ⟨rxTracks_rxByte b h.tracks, by simp [h.res], by simp⟩

/-- A frame end latches the result of the bytes taken, which stay in RXBUF (40_frame_rx.md R106). -/
theorem RxTracks.rxReflects_rxEnd {raw : List Byte} {s : State} (now : Ts) (h : RxTracks raw s) :
    RxReflects [] (some (raw, now)) (rxEnd now s) := by
  refine ⟨rxTracks_nil rfl rfl, by simp [resultOf, rxResult_of_rxTracks now h], ?_⟩
  rintro - _ ⟨⟩
  exact h.buf

/-- A frame received whole, with `classify`'s answer on it, is a frame ended (log entry 9). -/
theorem rxReflects_receiveFrame {raw : List Byte} {now : Ts} {r : Result Message} {s : State}
    (hr : classify s.params raw now = r) : RxReflects [] (some (raw, now)) (receiveFrame raw r s) := by
  obtain ⟨-, -, -, -, -, -, -, -, hread⟩ := receiveFrame_effect raw r s
  refine ⟨rxTracks_nil rfl rfl, by simp [resultOf, hr], ?_⟩
  rintro - _ ⟨⟩ i hi hlen
  rw [hread, if_pos ⟨hlen, hi⟩]

/-- Every well-formed frame end latches `classify` of its frame: the bytes taken, or the frame a class names, because the
class's constructor answers what `classify` does (30_encoding.md R87, R106). -/
theorem rxReflects_of_endsFrame {h : History} {s : State} {i : Instr} (hends : endsFrame i = true)
    (hwf : i.wf s.params = true) (hs : RxTracks h.rxBytes s) :
    ∃ raw now, (historyAfter h i).rxBytes = [] ∧ (historyAfter h i).rxLast = some (raw, now) ∧
      fitsTs s.params now = true ∧ RxReflects [] (some (raw, now)) (nextState i s) := by
  cases i with
  | rxe now => exact ⟨_, _, rfl, rfl, hwf, hs.rxReflects_rxEnd now⟩
  | rxbe b now => exact ⟨_, _, rfl, rfl, hwf, (rxTracks_rxByte b hs).rxReflects_rxEnd now⟩
  | sensorTh f now | sensorT f now =>
    obtain ⟨hf, hnow⟩ := Bool.and_eq_true_iff.1 hwf
    exact ⟨_, _, rfl, rfl, hnow, rxReflects_receiveFrame (classify_sensorBytes hf now)⟩
  | generic typ payload now =>
    simp only [Instr.wf, Bool.and_eq_true] at hwf
    obtain ⟨⟨hfits, hunclaimed⟩, hnow⟩ := hwf
    exact ⟨_, _, rfl, rfl, hnow, rxReflects_receiveFrame (classify_wireBytes_of_unclaimed hfits hunclaimed now)⟩
  | rst | nop | rxb | txb | txe | txbe => cases hends

/-- Every well-formed instruction takes the receive half on to the history with it added. -/
theorem rxReflects_nextState {h : History} {s : State} {i : Instr} (hwf : i.wf s.params = true)
    (hs : RxReflects h.rxBytes h.rxLast s) :
    RxReflects (historyAfter h i).rxBytes (historyAfter h i).rxLast (nextState i s) := by
  cases i with
  | rst => exact rxReflects_resetRegs s
  | nop => exact hs
  | rxb b => exact hs.rxByte b
  | txb | txe | txbe => exact hs.of_isTransmit rfl
  | rxe | rxbe | sensorTh | sensorT | generic =>
    obtain ⟨raw, now, hbytes, hlast, -, hend⟩ := rxReflects_of_endsFrame rfl hwf hs.tracks
    rw [hbytes, hlast]
    exact hend

/-! ### The transmit half -/

/-- The bytes offered are a matter of the transmit unit alone. -/
theorem TxTracks.of_tx_eq {bs : List Byte} {s t : State} (h : TxTracks bs s) (heq : t.tx = s.tx) : TxTracks bs t :=
  ⟨heq ▸ h.txcnt, heq ▸ h.txOvf, heq ▸ h.txacc, heq ▸ h.txbuf⟩

/-- A receive event or a frame class leaves the transmit half (20_memory.md R60). -/
theorem TxReflects.of_isReceive {bs : List Byte} {last : Option (Byte × List Byte)} {s : State} {i : Instr}
    (h : TxReflects bs last s) (hi : isReceive i = true) : TxReflects bs last (nextState i s) := by
  obtain ⟨htx, htxh⟩ := nextState_of_isReceive hi s
  exact ⟨h.tracks.of_tx_eq htx, htxh ▸ h.txh, htx ▸ h.held⟩

/-- Reset leaves the transmit half of the empty history (70_reset_and_hazards.md R230). -/
theorem txReflects_resetRegs (s : State) : TxReflects [] none (resetRegs s) :=
  ⟨txTracks_nil rfl rfl rfl, rfl, by simp⟩

/-- A byte offered leaves the header and ends the hold on its payload. -/
theorem TxReflects.txByte {bs : List Byte} {last : Option (Byte × List Byte)} {s : State} (b : Byte)
    (h : TxReflects bs last s) : TxReflects (bs ++ [b]) last (txByte b s) :=
  ⟨txTracks_txByte b h.tracks, by simp [h.txh], by simp⟩

/-- The header that `TXE` writes is `from_type_and_payload` of the bytes offered (43_frame_tx.md R187, R190). -/
theorem headerRegs_of_txTracks {bs : List Byte} {s : State} (t : Byte) (h : TxTracks bs s) :
    headerRegs t s.tx = builtRegs t bs := by
  obtain ⟨hcnt, hovf, hacc, -⟩ := h
  by_cases hlong : 253 < bs.length
  · simp [headerRegs, hovf, builtRegs, fromTypeAndPayload, hlong]
  · have hn : s.tx.txcnt = BitVec.ofNat 8 bs.length := BitVec.eq_of_toNat_eq (by simp; omega)
    have hsum : s.tx.txacc = checksum bs := by rw [hacc, List.take_of_length_le (by omega)]
    simp [headerRegs, hovf, builtRegs, fromTypeAndPayload, hlong, hn, hsum, BitVec.ofNat_add]

/-- `TXE` writes the header of the bytes offered, which stay in TXBUF (R187). -/
theorem TxTracks.txReflects_txEnd {bs : List Byte} {s : State} (t : Byte) (h : TxTracks bs s) :
    TxReflects [] (some (t, bs)) (txEnd t s) := by
  refine ⟨txTracks_nil rfl rfl rfl, headerRegs_of_txTracks t h, ?_⟩
  rintro - _ ⟨⟩
  exact h.txbuf

/-- Every instruction takes the transmit half on to the history with it added. -/
theorem txReflects_nextState {h : History} {s : State} (i : Instr) (hs : TxReflects h.txBytes h.txLast s) :
    TxReflects (historyAfter h i).txBytes (historyAfter h i).txLast (nextState i s) := by
  cases i with
  | rst => exact txReflects_resetRegs s
  | nop => exact hs
  | txb b => exact hs.txByte b
  | txe t => exact hs.tracks.txReflects_txEnd t
  | txbe b t => exact (hs.txByte b).tracks.txReflects_txEnd t
  | rxb | rxe | rxbe | sensorTh | sensorT | generic =>
    exact hs.of_isReceive rfl

/-- Settles O51: the launch state is clear, as reset leaves it. -/
theorem resetReflectsEmptyHistory : Obligations.ResetReflectsEmptyHistory :=
  reflects_iff.2 ⟨rxReflects_resetRegs State.reset, txReflects_resetRegs State.reset⟩

/-- Settles O52, half by half. -/
theorem stateReflectsHistory : Obligations.StateReflectsHistory := by
  intro h s i hs hwf
  obtain ⟨hrx, htx⟩ := reflects_iff.1 hs
  exact ⟨_, exec_eq_nextState i s, reflects_iff.2 ⟨rxReflects_nextState hwf hrx, txReflects_nextState i htx⟩⟩

end Sys2Proof.Machine
end

section
/-! SUPPORT. What `classify` can answer (41_dispatch.md R130), and that its register image is legal (10_state.md R25 to R27). -/

namespace Sys2Proof.Machine

/-! ### What `classify` can answer, and the registers it leaves -/

/-- The errors a frame end can latch (30_encoding.md R88): those of `validate`, and `InvalidDigit`. -/
def latchedErrors : List ErrorCode := [.frameTooShort, .badStartByte, .lengthMismatch, .checksumMismatch, .invalidDigit]

/-- The frame of a message. -/
def Message.frame : Message → Frame
  | .generic f => f
  | .sensor r => r.frame

/-- What the registers need of a sensor reading: three decimal digits each, and a humidity exactly where `sub` is 0
(10_state.md R27). -/
structure SensorReading.Legal (r : SensorReading) : Prop where
  tempLe : digitsValue r.tdig ≤ 999
  humLe : ∀ h, r.hum = some h → h.value ≤ 999
  humIff : r.hum.isSome = !r.sub

/-- Three decimal digits are at most 999. -/
theorem digitsValue_le_of_decimal {d : Digits} (h : decimal d = true) : digitsValue d ≤ 999 := by
  simp only [decimal, Bool.and_eq_true, decide_eq_true_eq] at h
  unfold digitsValue
  omega

/-- Of a frame with a legal `sub`, the sensor constructor answers `InvalidDigit` or a legal reading (42_sensor_decode.md
R153, R158). -/
theorem decodeSensor_cases {raw : List Byte} (p : Config.Params) (now : Ts) (hsub : (subOf raw).toNat ≤ 1) :
    decodeSensor p raw now = .error .invalidDigit ∨
    ∃ r, decodeSensor p raw now = .ok (.sensor r) ∧ r.frame = frameOf raw now ∧ r.Legal := by
  unfold decodeSensor
  rw [if_neg (by omega)]
  split
  · exact .inl rfl
  next htemp =>
    split
    · exact .inl rfl
    next hhum =>
      refine .inr ⟨_, rfl, rfl, digitsValue_le_of_decimal (by simpa using htemp), fun h hh => ?_, ?_⟩
      · have hpresent : (!(subOf raw).getLsbD 0) = true := by
          by_contra hno
          rw [if_neg hno] at hh
          cases hh
        simp only [hpresent, Bool.true_or, Bool.true_and, Bool.not_eq_true', Bool.not_eq_false] at hhum
        simp only [hpresent, if_true, Option.some.injEq] at hh
        subst hh
        exact digitsValue_le_of_decimal hhum
      · cases (subOf raw).getLsbD 0 <;> rfl

/-- A valid frame is generic, or fails by a digit, or is a legal reading (41_dispatch.md R130). -/
theorem classifyValid_cases (p : Config.Params) (raw : List Byte) (now : Ts) :
    classifyValid p raw now = .ok (.generic (frameOf raw now)) ∨ classifyValid p raw now = .error .invalidDigit ∨
    ∃ r, classifyValid p raw now = .ok (.sensor r) ∧ r.frame = frameOf raw now ∧ r.Legal := by
  cases hclaimed : claimed p raw
  · exact .inl (classifyValid_of_not_claimed hclaimed now)
  · obtain ⟨-, haccepts⟩ := (claimed_iff p raw).1 hclaimed
    simp only [acceptsSensor, Bool.and_eq_true, decide_eq_true_eq] at haccepts
    obtain ⟨-, hsub⟩ := haccepts
    rw [classifyValid_of_claimed hclaimed]
    exact .inr (decodeSensor_cases p now hsub)

/-- A valid frame has 4 to 257 bytes, and byte 3 is the checksum of its payload (40_frame_rx.md R102). -/
theorem length_and_checksum_of_validate {raw : List Byte} (h : validate raw = .ok ()) :
    4 ≤ raw.length ∧ raw.length ≤ 257 ∧ byteAt raw 3 = checksum (raw.drop 4) := by
  unfold validate at h
  split at h
  · cases h
  split at h
  · cases h
  split at h
  · cases h
  split at h
  · cases h
  next hlength hsum =>
    have := (byteAt raw 1).isLt
    exact ⟨by omega, by omega, not_not.1 hsum⟩

/-- `validate` gives one of the first four errors (R102). -/
theorem validate_error {raw : List Byte} {e : ErrorCode} (h : validate raw = .error e) : e ∈ latchedErrors := by
  unfold validate at h
  split at h
  · cases h; decide
  split at h
  · cases h; decide
  split at h
  · cases h; decide
  split at h
  · cases h; decide
  · cases h

/-- Everything `classify` can answer: a latched error, or, of a valid frame, the generic message or a legal reading
(R130). -/
theorem classify_cases (p : Config.Params) (raw : List Byte) (now : Ts) :
    (∃ e ∈ latchedErrors, classify p raw now = .error e) ∨
    ∃ m, classify p raw now = .ok m ∧ validate raw = .ok () ∧ m.frame = frameOf raw now ∧
      ∀ r, m = .sensor r → r.Legal := by
  unfold classify
  cases hvalid : validate raw with
  | error e => exact .inl ⟨e, validate_error hvalid, rfl⟩
  | ok =>
    rcases classifyValid_cases p raw now with h | h | ⟨r, h, hframe, hlegal⟩
    · exact .inr ⟨_, h, rfl, rfl, by simp⟩
    · exact .inl ⟨_, by decide, h⟩
    · exact .inr ⟨_, h, rfl, hframe, by rintro _ ⟨⟩; exact hlegal⟩

@[simp] theorem resultRegs_ok_resChk (m : Message) : (resultRegs (.ok m)).resChk = m.frame.checksum := by
  cases m <;> rfl

@[simp] theorem resultRegs_ok_resPaylen (m : Message) :
    (resultRegs (.ok m)).resPaylen = BitVec.ofNat 8 m.frame.payload.length := by
  cases m <;> rfl

@[simp] theorem resultRegs_ok_resTime (m : Message) : (resultRegs (.ok m)).resTime = m.frame.receivedAt := by
  cases m <;> rfl

/-- An error has a code other than 0 (60_exceptions.md R201). -/
theorem ErrorCode.code_ne_zero (e : ErrorCode) : e.code ≠ 0 := by cases e <;> decide

/-! ### The result registers are legal -/

/-- The absence encoding of all sensor registers is legal where the kind is not `SENSOR` (10_state.md R26, R27). -/
theorem resultLegal_of_sensorRegsAbsent {r : ResultRegs} (habsent : SensorRegsAbsent r)
    (hkind : r.resKind = 0 ∨ r.resKind = 1)
    (beforeFirst : r.resValid = false → r = ResultRegs.zero)
    (errIffNone : r.resValid = true → (r.resErr = 0 ↔ r.resKind ≠ 0))
    (errLegal : r.resErr = 0 ∨ r.resErr = 1 ∨ r.resErr = 2 ∨ r.resErr = 3 ∨ r.resErr = 4 ∨ r.resErr = 6)
    (errAbsence : r.resErr ≠ 0 → r = { ResultRegs.zero with resValid := true, resErr := r.resErr })
    (paylenLe : r.resPaylen.toNat ≤ 253) : ResultLegal r where
  beforeFirst := beforeFirst
  errIffNone := errIffNone
  kindLegal := by rcases hkind with h | h <;> rw [h] <;> decide
  errLegal := errLegal
  errAbsence := errAbsence
  genericAbsence _ := habsent
  paylenLe := paylenLe
  humIffSub h := by rcases hkind with h' | h' <;> rw [h'] at h <;> cases h
  tempRange := by rw [habsent.sTemp]; decide
  humRange := by rw [habsent.sHum]; decide
  humAbsence _ := ⟨habsent.sHdig, habsent.sHum⟩

/-- The cleared registers are legal (R36). -/
theorem resultLegal_zero : ResultLegal ResultRegs.zero :=
  resultLegal_of_sensorRegsAbsent ⟨rfl, rfl, rfl, rfl, rfl, rfl, rfl, rfl, rfl, rfl⟩ (.inl rfl) (fun _ => rfl)
    (fun h => by cases h) (.inl rfl) (fun h => absurd rfl h) (by decide)

/-- An error latched is its code and nothing else (60_exceptions.md R206). -/
theorem resultLegal_errorRegs {e : ErrorCode} (h : e ∈ latchedErrors) : ResultLegal (errorRegs e) :=
  resultLegal_of_sensorRegsAbsent ⟨rfl, rfl, rfl, rfl, rfl, rfl, rfl, rfl, rfl, rfl⟩ (.inl rfl) (fun h => by cases h)
    (fun _ => ⟨fun hcode => absurd hcode e.code_ne_zero, fun hkind => absurd rfl hkind⟩) (by revert e; decide)
    (fun _ => rfl) (Nat.zero_le _)

/-- A generic frame leaves every sensor register 0 (R110). -/
theorem resultLegal_frameRegs {f : Frame} (h : f.payload.length ≤ 253) : ResultLegal (frameRegs 1 f) :=
  resultLegal_of_sensorRegsAbsent ⟨rfl, rfl, rfl, rfl, rfl, rfl, rfl, rfl, rfl, rfl⟩ (.inr rfl) (fun h => by cases h)
    (fun _ => ⟨fun _ => (by decide : (1 : BitVec 2) ≠ 0), fun _ => rfl⟩) (.inl rfl) (fun h => absurd rfl h)
    (by simp [frameRegs]; omega)

/-- The register form of a temperature of three digits is its value (42_sensor_decode.md R159). -/
theorem tempRegister_toInt (neg : Bool) {mag : Nat} (h : mag ≤ 999) :
    (tempRegister neg mag).toInt = tempValue neg mag := by
  unfold tempRegister tempValue
  rw [BitVec.toInt_signExtend_of_le (by decide), BitVec.toInt_eq_toNat_cond, BitVec.toNat_ofNat]
  cases neg
  · simp; omega
  · simp; omega

/-- A legal reading leaves legal registers (10_state.md R27, 42_sensor_decode.md R170). -/
theorem resultLegal_sensorRegs {r : SensorReading} (h : r.frame.payload.length ≤ 253) (hr : r.Legal) :
    ResultLegal (sensorRegs r) where
  beforeFirst h := by cases h
  errIffNone _ := by simp [sensorRegs, frameRegs, ResultRegs.zero]
  kindLegal := by simp [sensorRegs, frameRegs]
  errLegal := .inl rfl
  errAbsence h := absurd rfl h
  genericAbsence h := absurd rfl h
  paylenLe := by simp [sensorRegs, frameRegs]; omega
  humIffSub _ := hr.humIff
  tempRange := by
    have hval : (sensorRegs r).sTemp.toInt = tempValue r.neg (digitsValue r.tdig) := tempRegister_toInt r.neg hr.tempLe
    have hle := hr.tempLe
    rw [hval, tempValue]
    split <;> omega
  humRange := by
    cases hhum : r.hum with
    | none => simp [sensorRegs, hhum]
    | some h =>
      have hle := hr.humLe h hhum
      simp [sensorRegs, hhum]; omega
  humAbsence h := by
    cases hhum : r.hum with
    | none => simp [sensorRegs, hhum]
    | some _ => simp [sensorRegs, hhum] at h

/-- The payload of a valid frame has at most 253 bytes (40_frame_rx.md R72). -/
theorem payload_length_of_validate {raw : List Byte} (h : validate raw = .ok ()) : (raw.drop 4).length ≤ 253 := by
  obtain ⟨-, hle, -⟩ := length_and_checksum_of_validate h
  simp; omega

/-- The image of whatever `classify` answers is legal (10_state.md R25 to R27). -/
theorem resultLegal_classify (p : Config.Params) (raw : List Byte) (now : Ts) :
    ResultLegal (resultRegs (classify p raw now)) := by
  rcases classify_cases p raw now with ⟨e, he, h⟩ | ⟨m, h, hvalid, hframe, hlegal⟩
  · rw [h]; exact resultLegal_errorRegs he
  · have hpayload : m.frame.payload.length ≤ 253 := hframe ▸ payload_length_of_validate hvalid
    rw [h]
    cases m with
    | generic f => exact resultLegal_frameRegs hpayload
    | sensor r => exact resultLegal_sensorRegs hpayload (hlegal r rfl)

/-- The time stamp latched is `now` or, with an error, 0 (R25), so it fits where `now` does (30_encoding.md R83). -/
theorem fitsTs_classify {p : Config.Params} {now : Ts} (h : fitsTs p now = true) (raw : List Byte) :
    fitsTs p (resultRegs (classify p raw now)).resTime = true := by
  rcases classify_cases p raw now with ⟨e, -, hres⟩ | ⟨m, hres, -, hframe, -⟩
  · rw [hres]; simp [fitsTs, resultRegs, errorRegs, ResultRegs.zero]
  · rw [hres, resultRegs_ok_resTime, hframe]; exact h

end Sys2Proof.Machine
end

section
/-! SUPPORT. The invariant of the state, half by half, and that every step keeps it (10_state.md R22 to R30). -/

namespace Sys2Proof.Machine

/-! ### The bytes taken, read off the registers -/

/-- A write inside the space keeps a buffer in canonical form and inside it (20_memory.md R50). -/
theorem BufferWf.write {n : Nat} {m : Mem} {a : Nat} (h : BufferWf n m) (ha : a < n) (b : Byte) :
    BufferWf n (m.write a b) :=
  ⟨Mem.write_wf a b h.canonical, fun c hc => by rw [Mem.read_write_other m a c b (by omega), h.inside c hc]⟩

/-- Where every byte counted was written and summed, the unit has taken some sequence: the bytes held and, once the count
is saturated, one more that accounts for the sum. -/
theorem exists_rxTracks {s : State} (hcnt : s.rx.cnt.toNat ≤ Config.cntSat)
    (hwritten : ∀ i, i < s.rx.cnt.toNat → i < Config.bufBytes → (s.rx.buf.read? i).isSome = true)
    (hacc : s.rx.cnt.toNat ≤ Config.bufBytes → s.rx.acc = checksum ((heldFrame s).drop 4)) :
    ∃ raw, RxTracks raw s := by
  simp only [Config.cntSat, Config.bufBytes] at hcnt hwritten hacc
  by_cases hfits : s.rx.cnt.toNat ≤ 257
  · have hholds : HoldsBytes 257 s.rx.buf (heldFrame s) := holdsBytes_bufBytes fun i hi => hwritten i hi (by omega)
    exact ⟨heldFrame s, by simp [heldFrame]; omega, hacc hfits, hholds⟩
  · have hholds : HoldsBytes 257 s.rx.buf (bufBytes s.rx.buf 257) :=
      holdsBytes_bufBytes fun i hi => hwritten i (by omega) hi
    refine ⟨bufBytes s.rx.buf 257 ++ [s.rx.acc - checksum ((bufBytes s.rx.buf 257).drop 4)], by simp; omega, ?_,
      hholds.append_right (by simp) _⟩
    rw [List.drop_append_of_le_length (by simp), checksum_concat, checksumStep, BitVec.add_comm, BitVec.sub_add_cancel]

/-- The bytes held are the bytes taken, as long as they fit the buffer. -/
theorem heldFrame_of_rxTracks {raw : List Byte} {s : State} (h : RxTracks raw s) (hlen : raw.length ≤ 257) :
    heldFrame s = raw := by
  rw [heldFrame, h.cnt, show min raw.length 258 = raw.length by omega, h.buf.bufBytes_eq hlen]

/-- Where every byte accepted was written and summed, the unit was offered some sequence: the bytes accepted and, once one
was dropped, one more. -/
theorem exists_txTracks {s : State} (hcnt : s.tx.txcnt.toNat ≤ Config.txBufBytes)
    (hovf : s.tx.txOvf = true → s.tx.txcnt.toNat = Config.txBufBytes)
    (hwritten : ∀ i, i < s.tx.txcnt.toNat → (s.tx.txbuf.read? i).isSome = true)
    (hacc : s.tx.txacc = checksum (bufBytes s.tx.txbuf s.tx.txcnt.toNat)) : ∃ bs, TxTracks bs s := by
  simp only [Config.txBufBytes] at hcnt hovf
  have hholds : HoldsBytes 253 s.tx.txbuf (bufBytes s.tx.txbuf s.tx.txcnt.toNat) := holdsBytes_bufBytes hwritten
  cases hdropped : s.tx.txOvf
  · refine ⟨_, by simp; omega, by simp [hdropped]; omega, ?_, hholds⟩
    rw [List.take_of_length_le (by simp; omega), hacc]
  · have hfull := hovf hdropped
    refine ⟨bufBytes s.tx.txbuf s.tx.txcnt.toNat ++ [0], by simp; omega, by simp [hdropped]; omega, ?_,
      hholds.append_right (by simp; omega) _⟩
    rw [List.take_append_of_le_length (by simp; omega), List.take_of_length_le (by simp; omega), hacc]

/-- The bytes accepted are the first 253 of the bytes offered. -/
theorem bufBytes_of_txTracks {bs : List Byte} {s : State} (h : TxTracks bs s) :
    bufBytes s.tx.txbuf s.tx.txcnt.toNat = bs.take 253 := by
  have hholds : HoldsBytes 253 s.tx.txbuf (bs.take 253) := fun i hi hlen => by
    rw [h.txbuf i hi (by simp at hlen; omega), List.getElem?_take_of_lt hi]
  rw [h.txcnt, show min bs.length 253 = (bs.take 253).length by simp; omega, hholds.bufBytes_eq (by simp)]

/-! ### The invariant, half by half -/

/-- Every payload byte can be read, and the payload has the latched checksum (40_frame_rx.md R111). -/
def PayloadReadable (s : State) : Prop :=
  (∀ i, i < s.res.resPaylen.toNat → (s.rx.buf.read? (4 + i)).isSome = true) ∧ checksum (payloadBytes s) = s.res.resChk

/-- Every byte of the payload built can be read, and the payload has the header's checksum (43_frame_tx.md R189). -/
def TransmitReadable (s : State) : Prop :=
  (∀ i, i < s.txh.txhN.toNat → (s.tx.txbuf.read? i).isSome = true) ∧
    checksum (bufBytes s.tx.txbuf s.txh.txhN.toNat) = s.txh.txhChk

/-- The receive half of the invariant; the counter, the sum and the bytes written are those of some sequence taken
(10_state.md R22 to R27). -/
structure RxInv (s : State) : Prop where
  mem : BufferWf Config.bufBytes s.rx.buf
  tracked : ∃ raw, RxTracks raw s
  legal : ResultLegal s.res
  timeFits : fitsTs s.params s.res.resTime = true
  window : payloadOpen s = true → PayloadReadable s

/-- The transmit half of the invariant (R29, R30). -/
structure TxInv (s : State) : Prop where
  mem : BufferWf Config.txBufBytes s.tx.txbuf
  tracked : ∃ bs, TxTracks bs s
  legal : HeaderLegal s.txh
  window : transmitOpen s = true → TransmitReadable s

/-- The receive half from the invariant. -/
theorem Inv.rxInv {s : State} (h : Inv s) : RxInv s :=
  ⟨h.rxMem, exists_rxTracks h.cntLe h.rxWritten h.accSum, h.resLegal, h.timeFits, h.payloadWindow⟩

/-- The transmit half from the invariant. -/
theorem Inv.txInv {s : State} (h : Inv s) : TxInv s :=
  ⟨h.txMem, exists_txTracks h.txcntLe h.ovfFull h.txWritten h.txaccSum, h.txhLegal, h.transmitWindow⟩

/-- The invariant from its halves. -/
theorem inv_of_halves {s : State} (hrx : RxInv s) (htx : TxInv s) : Inv s := by
  obtain ⟨raw, hraw⟩ := hrx.tracked
  obtain ⟨bs, hbs⟩ := htx.tracked
  have hcnt := hraw.cnt
  have htxcnt := hbs.txcnt
  exact {
    rxMem := hrx.mem
    txMem := htx.mem
    cntLe := by simp only [Config.cntSat]; omega
    rxWritten := fun i hi hfits => hraw.buf.isSome_read hfits (by omega)
    accSum := fun hfits => by
      simp only [Config.bufBytes] at hfits
      rw [heldFrame_of_rxTracks hraw (by omega), hraw.acc]
    txcntLe := by simp only [Config.txBufBytes]; omega
    ovfFull := fun hovf => by
      have hlong : 253 < bs.length := of_decide_eq_true (hbs.txOvf ▸ hovf)
      simp only [Config.txBufBytes]; omega
    txWritten := fun i hi => hbs.txbuf.isSome_read (by omega) (by omega)
    txaccSum := by rw [bufBytes_of_txTracks hbs, hbs.txacc]
    resLegal := hrx.legal
    timeFits := hrx.timeFits
    txhLegal := htx.legal
    payloadWindow := hrx.window
    transmitWindow := htx.window }

/-! ### The receive half is kept -/

/-- The cleared result registers close the payload window, and nothing was taken (70_reset_and_hazards.md R230). -/
theorem rxInv_resetRegs {s : State} (h : BufferWf Config.bufBytes s.rx.buf) : RxInv (resetRegs s) :=
  ⟨h, ⟨[], rxTracks_nil rfl rfl⟩, resultLegal_zero, by simp [fitsTs, ResultRegs.zero], fun hopen => by cases hopen⟩

/-- A byte taken closes the payload window (40_frame_rx.md R111). -/
@[simp] theorem payloadOpen_rxByte (b : Byte) (s : State) : payloadOpen (rxByte b s) = false := by
  have hcnt : (rxByte b s).rx.cnt ≠ 0 := fun h => by
    have := congrArg BitVec.toNat h
    simp [Config.cntSat] at this
    omega
  simp only [payloadOpen, beq_eq_false_iff_ne.2 hcnt, Bool.and_false]

/-- A byte taken keeps the receive half. -/
theorem RxInv.rxByte {s : State} (b : Byte) (h : RxInv s) : RxInv (rxByte b s) := by
  obtain ⟨raw, hraw⟩ := h.tracked
  refine ⟨?_, ⟨_, rxTracks_rxByte b hraw⟩, by simpa using h.legal, by simpa using h.timeFits, by simp⟩
  rw [rxByte_buf]
  split
  next hlt => exact h.mem.write hlt b
  · exact h.mem

/-- Where a frame just ended and its bytes are held, an open payload window shows them: the result is then a valid frame's
(R111). -/
theorem RxReflects.payloadReadable {raw : List Byte} {now : Ts} {s : State} (h : RxReflects [] (some (raw, now)) s)
    (hopen : payloadOpen s = true) : PayloadReadable s := by
  have hres : s.res = resultRegs (classify s.params raw now) := h.res
  have hholds : HoldsBytes 257 s.rx.buf raw := h.held rfl _ rfl
  rcases classify_cases s.params raw now with ⟨e, -, herr⟩ | ⟨m, hok, hvalid, hframe, -⟩
  · simp only [payloadOpen, Bool.and_eq_true, beq_iff_eq] at hopen
    obtain ⟨⟨-, hnone⟩, -⟩ := hopen
    rw [hres, herr] at hnone
    exact absurd hnone e.code_ne_zero
  · obtain ⟨hmin, hmax, hsum⟩ := length_and_checksum_of_validate hvalid
    have hlen : s.res.resPaylen.toNat = raw.length - 4 := by
      rw [hres, hok, resultRegs_ok_resPaylen, hframe]
      simp [frameOf]; omega
    have hchk : s.res.resChk = byteAt raw 3 := by rw [hres, hok, resultRegs_ok_resChk, hframe]; rfl
    have hpayload : payloadBytes s = raw.drop 4 := by
      refine List.ext_getElem (by simp [payloadBytes, hlen]) fun i hi _ => ?_
      have hi' : 4 + i < raw.length := by simp [payloadBytes] at hi; omega
      simp only [payloadBytes, List.getElem_map, List.getElem_range, List.getElem_drop]
      rw [hholds.bufByte_eq (by omega) hi', byteAt_of_getElem? (List.getElem?_eq_getElem hi')]
    exact ⟨fun i hi => hholds.isSome_read (by omega) (by omega), by rw [hpayload, hchk, hsum]⟩

/-- A frame just ended, its time stamp one that the port passes, leaves the receive half. -/
theorem RxReflects.rxInv {raw : List Byte} {now : Ts} {s : State} (h : RxReflects [] (some (raw, now)) s)
    (hmem : BufferWf Config.bufBytes s.rx.buf) (hnow : fitsTs s.params now = true) : RxInv s := by
  have hres : s.res = resultRegs (classify s.params raw now) := h.res
  exact ⟨hmem, ⟨_, h.tracks⟩, hres ▸ resultLegal_classify s.params raw now, hres ▸ fitsTs_classify hnow raw,
    h.payloadReadable⟩

/-- A frame received whole leaves RXBUF canonical and inside its space (20_memory.md R51). -/
theorem BufferWf.receiveFrame {s : State} (h : BufferWf Config.bufBytes s.rx.buf) (raw : List Byte) (r : Result Message) :
    BufferWf Config.bufBytes (receiveFrame raw r s).rx.buf := by
  obtain ⟨-, -, -, -, -, -, -, -, hread⟩ := receiveFrame_effect raw r s
  refine ⟨storeFrom_wf raw 0 h.canonical, fun a ha => ?_⟩
  rw [hread, if_neg (by simp only [Config.bufBytes] at ha; omega), h.inside a ha]

/-- Every frame end leaves RXBUF canonical and inside its space. -/
theorem bufferWf_of_endsFrame {i : Instr} {s : State} (hends : endsFrame i = true) (h : RxInv s) :
    BufferWf Config.bufBytes (nextState i s).rx.buf := by
  cases i with
  | rxe => exact h.mem
  | rxbe b => exact (h.rxByte b).mem
  | sensorTh | sensorT | generic => exact h.mem.receiveFrame _ _
  | rst | nop | rxb | txb | txe | txbe => cases hends

/-- A transmit event keeps the receive half, of which it writes nothing (R60). -/
theorem RxInv.of_isTransmit {i : Instr} {s : State} (h : RxInv s) (hi : isTransmit i = true) : RxInv (nextState i s) := by
  obtain ⟨hrx, hres⟩ := nextState_of_isTransmit hi s
  obtain ⟨raw, hraw⟩ := h.tracked
  refine ⟨hrx ▸ h.mem, ⟨raw, hraw.of_rx_eq hrx⟩, hres ▸ h.legal, by rw [nextState_params, hres]; exact h.timeFits, ?_⟩
  simpa only [payloadOpen, PayloadReadable, payloadBytes, hrx, hres] using h.window

/-- Every well-formed instruction keeps the receive half. -/
theorem rxInv_nextState {i : Instr} {s : State} (hwf : i.wf s.params = true) (h : RxInv s) : RxInv (nextState i s) := by
  cases i with
  | rst => exact rxInv_resetRegs h.mem
  | nop => exact h
  | rxb b => exact h.rxByte b
  | txb | txe | txbe => exact h.of_isTransmit rfl
  | rxe | rxbe | sensorTh | sensorT | generic =>
    obtain ⟨raw, hraw⟩ := h.tracked
    obtain ⟨_, _, -, -, hnow, hend⟩ := rxReflects_of_endsFrame (h := { History.empty with rxBytes := raw }) rfl hwf hraw
    exact hend.rxInv (bufferWf_of_endsFrame rfl h) (by rwa [nextState_params])

/-! ### The transmit half is kept -/

/-- The cleared header registers are legal (10_state.md R36). -/
theorem headerLegal_zero : HeaderLegal HeaderRegs.zero := ⟨fun h => (by cases h), fun _ => ⟨.inl rfl, rfl⟩⟩

/-- A built header, and that of a payload too long, is legal (R30). -/
theorem headerLegal_builtRegs (t : Byte) (bs : List Byte) : HeaderLegal (builtRegs t bs) := by
  by_cases hlong : 253 < bs.length
  · have hfail : builtRegs t bs = { HeaderRegs.zero with txhErr := 8 } := by
      simp [builtRegs, fromTypeAndPayload, hlong, ErrorCode.code]
    rw [hfail]
    exact ⟨fun h => (by cases h), fun _ => ⟨.inr rfl, rfl⟩⟩
  · refine ⟨fun _ => ?_, fun h => ?_⟩
    · simp [builtRegs, fromTypeAndPayload, hlong]; omega
    · simp [builtRegs, fromTypeAndPayload, hlong] at h

/-- The cleared header registers close the transmit window, and nothing was offered (70_reset_and_hazards.md R230). -/
theorem txInv_resetRegs {s : State} (h : BufferWf Config.txBufBytes s.tx.txbuf) : TxInv (resetRegs s) :=
  ⟨h, ⟨[], txTracks_nil rfl rfl rfl⟩, headerLegal_zero, fun hopen => by cases hopen⟩

/-- A byte offered closes the transmit window (43_frame_tx.md R189). -/
@[simp] theorem transmitOpen_txByte (b : Byte) (s : State) : transmitOpen (txByte b s) = false := by
  by_cases hlt : s.tx.txcnt.toNat < Config.txBufBytes
  · have hcnt : s.tx.txcnt + 1 ≠ 0 := fun h => by
      have := congrArg BitVec.toNat h
      simp only [Config.txBufBytes] at hlt
      simp [BitVec.toNat_add] at this
      omega
    simp only [transmitOpen, txByte_txcnt, if_pos hlt, beq_eq_false_iff_ne.2 hcnt, Bool.and_false, Bool.false_and]
  · simp only [transmitOpen, txByte_txOvf, if_neg hlt, Bool.not_true, Bool.and_false]

/-- A byte offered keeps the transmit half. -/
theorem TxInv.txByte {s : State} (b : Byte) (h : TxInv s) : TxInv (txByte b s) := by
  obtain ⟨bs, hbs⟩ := h.tracked
  refine ⟨?_, ⟨_, txTracks_txByte b hbs⟩, by simpa using h.legal, by simp⟩
  rw [txByte_txbuf]
  split
  next hlt => exact h.mem.write hlt b
  · exact h.mem

/-- `TXE` leaves a legal header, and a window that shows the payload built (R187, R189). -/
theorem TxInv.txEnd {s : State} (t : Byte) (h : TxInv s) : TxInv (txEnd t s) := by
  obtain ⟨bs, hbs⟩ := h.tracked
  have htxh : (Machine.txEnd t s).txh = builtRegs t bs := headerRegs_of_txTracks t hbs
  refine ⟨h.mem, ⟨[], txTracks_nil rfl rfl rfl⟩, htxh ▸ headerLegal_builtRegs t bs, fun hopen => ?_⟩
  by_cases hlong : 253 < bs.length
  · simp only [transmitOpen, htxh] at hopen
    simp [builtRegs, fromTypeAndPayload, hlong, HeaderRegs.zero] at hopen
  · have hn : (builtRegs t bs).txhN.toNat = bs.length := by simp [builtRegs, fromTypeAndPayload, hlong]; omega
    have hchk : (builtRegs t bs).txhChk = checksum bs := by simp [builtRegs, fromTypeAndPayload, hlong]
    rw [TransmitReadable, htxh, hn, hchk, txEnd_txbuf, hbs.txbuf.bufBytes_eq (by omega)]
    exact ⟨fun i hi => hbs.txbuf.isSome_read (by omega) hi, rfl⟩

/-- A receive event or a frame class keeps the transmit half, of which it writes nothing (20_memory.md R60). -/
theorem TxInv.of_isReceive {i : Instr} {s : State} (h : TxInv s) (hi : isReceive i = true) : TxInv (nextState i s) := by
  obtain ⟨htx, htxh⟩ := nextState_of_isReceive hi s
  obtain ⟨bs, hbs⟩ := h.tracked
  refine ⟨htx ▸ h.mem, ⟨bs, hbs.of_tx_eq htx⟩, htxh ▸ h.legal, ?_⟩
  simpa only [transmitOpen, TransmitReadable, htx, htxh] using h.window

/-- Every instruction keeps the transmit half. -/
theorem txInv_nextState (i : Instr) {s : State} (h : TxInv s) : TxInv (nextState i s) := by
  cases i with
  | rst => exact txInv_resetRegs h.mem
  | nop => exact h
  | txb b => exact h.txByte b
  | txe t => exact h.txEnd t
  | txbe b t => exact (h.txByte b).txEnd t
  | rxb | rxe | rxbe | sensorTh | sensorT | generic => exact h.of_isReceive rfl

/-! ### Every step keeps the invariant -/

/-- Every well-formed instruction keeps the invariant. -/
theorem Inv.nextState {i : Instr} {s : State} (h : Inv s) (hwf : i.wf s.params = true) : Inv (nextState i s) :=
  inv_of_halves (rxInv_nextState hwf h.rxInv) (txInv_nextState i h.txInv)

/-- So does every run of them. -/
theorem Inv.run {is : List Instr} {s : State} (h : Inv s) (hwf : ∀ i ∈ is, i.wf s.params = true) :
    Inv (is.foldl (fun t i => Machine.nextState i t) s) := by
  induction is generalizing s with
  | nil => exact h
  | cons i is ih =>
    obtain ⟨hi, his⟩ := List.forall_mem_cons.1 hwf
    exact ih (h.nextState hi) (by simpa using his)

/-- The events of an input at the ports are well formed: their time stamp is what the `now` port passes (30_encoding.md
R83). -/
theorem wf_of_mem_eventsOf {p : Config.Params} {inp : Input} {i : Instr} (hi : i ∈ eventsOf (atPorts p inp)) :
    i.wf p = true := by
  have hnow := fitsTs_atPorts p inp
  rcases mem_eventsOf_iff.1 hi with ⟨-, rfl⟩ | ⟨-, hi | hi | ⟨-, -, rfl⟩⟩
  · rfl
  · rcases receiveEvent_cases hi with ⟨rfl, -⟩ | ⟨rfl, -⟩ | ⟨rfl, -⟩
    · rfl
    · exact hnow
    · exact hnow
  · rcases transmitEvent_cases hi with ⟨rfl, -⟩ | ⟨rfl, -⟩ | ⟨rfl, -⟩ <;> rfl
  · rfl

/-- Sampling an input takes nothing from what the invariant speaks of (log entry 1). -/
theorem Inv.sample {s : State} (h : Inv s) : Inv (sample s).2 := by
  unfold Machine.sample
  split <;> exact { h with }

/-- Settles O48: the launch state is clear, as reset leaves it, and its buffers are empty. -/
theorem invariantAtReset : Obligations.InvariantAtReset :=
  inv_of_halves (rxInv_resetRegs (s := State.reset) ⟨rfl, fun _ _ => rfl⟩)
    (txInv_resetRegs (s := State.reset) ⟨rfl, fun _ _ => rfl⟩)

/-- Settles O49: a step performs well-formed events on the state without the input it samples. -/
theorem stepKeepsInvariant : Obligations.StepKeepsInvariant := by
  intro s t hs hstep
  rw [step, clock, runInstrs_eq_foldl, Host.Outcome.next.injEq] at hstep
  exact hstep ▸ hs.sample.run fun i hi => wf_of_mem_eventsOf hi

end Sys2Proof.Machine
end

section
/-! SUPPORT. The two halves of the state share nothing: what each instruction leaves unchanged, and that a receive and a
transmit instruction commute (20_memory.md R60, 30_encoding.md R82). -/

namespace Sys2Proof.Machine

/-! ### The fields no instruction writes -/

@[simp] theorem receiveFrame_script (raw : List Byte) (r : Result Message) (s : State) :
    (receiveFrame raw r s).script = s.script := by
  obtain ⟨-, -, -, -, -, -, hscript, -⟩ := storeFrom_frame raw 0 s
  exact hscript

@[simp] theorem receiveFrame_envIdx (raw : List Byte) (r : Result Message) (s : State) :
    (receiveFrame raw r s).envIdx = s.envIdx := by
  obtain ⟨-, -, -, -, -, -, -, henvIdx⟩ := storeFrom_frame raw 0 s
  exact henvIdx

/-- No instruction writes the script: sampling an input is a matter of the step (log entry 1). -/
@[simp] theorem nextState_script (i : Instr) (s : State) : (nextState i s).script = s.script := by
  cases i <;> simp [nextState]

/-- No instruction counts a free input (log entry 1). -/
@[simp] theorem nextState_envIdx (i : Instr) (s : State) : (nextState i s).envIdx = s.envIdx := by
  cases i <;> simp [nextState]

/-- Settles O41, from what each half's instructions leave of the other and the fields no instruction writes. -/
theorem halvesShareNothing : Obligations.HalvesShareNothing := by
  refine ⟨fun i s hi => ⟨_, exec_eq_nextState i s, ?_⟩, fun i s hi => ⟨_, exec_eq_nextState i s, ?_⟩⟩
  · simpa using nextState_of_isReceive hi s
  · simpa using nextState_of_isTransmit hi s

/-! ### Each instruction acts on its own half -/

/-- The transmit half of `t` beside the receive half, and the model's own fields, of `s`. -/
def joinHalves (s t : State) : State := { s with tx := t.tx, txh := t.txh }

@[simp] theorem joinHalves_self (s : State) : joinHalves s s = s := rfl

theorem rxByte_joinHalves (b : Byte) (s t : State) : rxByte b (joinHalves s t) = joinHalves (rxByte b s) t := by
  by_cases hroom : s.rx.cnt.toNat < Config.bufBytes <;> simp [rxByte, joinHalves, hroom, memWrite]

theorem rxEnd_joinHalves (now : Ts) (s t : State) : rxEnd now (joinHalves s t) = joinHalves (rxEnd now s) t := rfl

theorem storeFrom_joinHalves (i : Nat) (raw : List Byte) (s t : State) :
    storeFrom i raw (joinHalves s t) = joinHalves (storeFrom i raw s) t := by
  induction raw generalizing i s with
  | nil => rfl
  | cons b raw ih =>
    unfold storeFrom
    split
    · exact ih (i + 1) (memWrite .rxbuf i b s)
    · exact ih (i + 1) s

theorem receiveFrame_joinHalves (raw : List Byte) (r : Result Message) (s t : State) :
    receiveFrame raw r (joinHalves s t) = joinHalves (receiveFrame raw r s) t := by
  rw [receiveFrame, storeFrom_joinHalves]
  rfl

theorem txByte_joinHalves (b : Byte) (s t : State) : txByte b (joinHalves s t) = joinHalves s (txByte b t) := by
  by_cases hroom : t.tx.txcnt.toNat < Config.txBufBytes <;> simp [txByte, joinHalves, hroom, memWrite]

theorem txEnd_joinHalves (ty : Byte) (s t : State) : txEnd ty (joinHalves s t) = joinHalves s (txEnd ty t) := rfl

/-- A receive event or a frame class neither reads nor writes the transmit half (20_memory.md R60). -/
theorem nextState_joinHalves_of_isReceive {i : Instr} (h : isReceive i = true) (s t : State) :
    nextState i (joinHalves s t) = joinHalves (nextState i s) t := by
  cases i with
  | rxb b => exact rxByte_joinHalves b s t
  | rxe now => exact rxEnd_joinHalves now s t
  | rxbe b now => simp only [nextState, rxByte_joinHalves, rxEnd_joinHalves]
  | sensorTh | sensorT | generic => exact receiveFrame_joinHalves _ _ s t
  | rst | nop | txb | txe | txbe => cases h

/-- A transmit event neither reads nor writes the receive half or the model's own fields (R60). -/
theorem nextState_joinHalves_of_isTransmit {j : Instr} (h : isTransmit j = true) (s t : State) :
    nextState j (joinHalves s t) = joinHalves s (nextState j t) := by
  cases j with
  | txb b => exact txByte_joinHalves b s t
  | txe ty => exact txEnd_joinHalves ty s t
  | txbe b ty => simp only [nextState, txByte_joinHalves, txEnd_joinHalves]
  | rst | nop | rxb | rxe | rxbe | sensorTh | sensorT | generic => cases h

/-- A receive instruction and then a transmit event: the receive half after the one beside the transmit half after the
other. -/
theorem nextState_transmit_receive {i j : Instr} (hi : isReceive i = true) (hj : isTransmit j = true) (s : State) :
    nextState j (nextState i s) = joinHalves (nextState i s) (nextState j s) :=
  calc nextState j (nextState i s)
    _ = nextState j (joinHalves (nextState i s) s) := by rw [← nextState_joinHalves_of_isReceive hi, joinHalves_self]
    _ = joinHalves (nextState i s) (nextState j s) := nextState_joinHalves_of_isTransmit hj _ _

/-- A transmit event and then a receive instruction: the same two halves. -/
theorem nextState_receive_transmit {i j : Instr} (hi : isReceive i = true) (hj : isTransmit j = true) (s : State) :
    nextState i (nextState j s) = joinHalves (nextState i s) (nextState j s) :=
  calc nextState i (nextState j s)
    _ = nextState i (joinHalves s (nextState j s)) := by rw [← nextState_joinHalves_of_isTransmit hj, joinHalves_self]
    _ = joinHalves (nextState i s) (nextState j s) := nextState_joinHalves_of_isReceive hi _ _

/-- Settles O42: either order leaves the receive half that `i` makes of `s` beside the transmit half that `j` makes of it. -/
theorem receiveAndTransmitCommute : Obligations.ReceiveAndTransmitCommute := by
  intro i j s hi hj
  refine ⟨joinHalves (nextState i s) (nextState j s), ?_, ?_⟩
  · rw [runInstrs_pair_next (exec_eq_nextState i s), exec_eq_nextState, nextState_transmit_receive hi hj]
  · rw [runInstrs_pair_next (exec_eq_nextState j s), exec_eq_nextState, nextState_receive_transmit hi hj]

end Sys2Proof.Machine
end

section
/-! SUPPORT. A valid frame is the wire bytes of a type and a payload (30_encoding.md R70 to R72), and the printed event
words. -/

namespace Sys2Proof.Machine

/-- Settles O1: each word is a literal, and decoding it computes. -/
theorem knownEventWordsDecode : Obligations.KnownEventWordsDecode := by
  unfold Obligations.KnownEventWordsDecode
  decide

/-- What `validate` accepts: all four checks hold (40_frame_rx.md R102). -/
theorem validate_eq_ok_iff {raw : List Byte} : validate raw = .ok () ↔
    4 ≤ raw.length ∧ byteAt raw 0 = Config.startMarker ∧ (byteAt raw 1).toNat = raw.length - 2 ∧
      byteAt raw 3 = checksum (raw.drop 4) := by
  unfold validate
  split_ifs <;> simp_all

/-- The length byte of a payload that fits it holds the payload's length plus 2 (R71). -/
theorem lengthByte_toNat {n : Nat} (h : n ≤ 253) : (lengthByte n).toNat = n + 2 := by
  rw [lengthByte_of_le h, BitVec.toNat_ofNat]
  omega

/-- A valid frame is the wire bytes of its own type and payload (43_frame_tx.md R183 (iii)). -/
theorem wireBytes_of_validate {raw : List Byte} (h : validate raw = .ok ()) :
    wireBytes (byteAt raw 2) (raw.drop 4) = raw := by
  obtain ⟨hlong, hstart, hlength, hsum⟩ := validate_eq_ok_iff.1 h
  match raw, hlong with
  | b0 :: b1 :: b2 :: b3 :: payload, _ =>
    have hfits := payload_length_of_validate h
    have hlen : b1 = lengthByte payload.length := BitVec.eq_of_toNat_eq (by
      rw [lengthByte_toNat (by simpa using hfits)]
      simpa [byteAt] using hlength)
    have hb0 : b0 = Config.startMarker := hstart
    have hb3 : b3 = checksum payload := hsum
    subst hb0 hlen hb3
    rfl

/-- The bytes of a sensor-reading frame are a valid frame (R73, R87). -/
theorem validate_sensorBytes (sub : Bool) (f : SensorFrame) : validate (sensorBytes sub f) = .ok () :=
  validate_wireBytes f.typ (by simp)

/-- Settles O18: a valid frame is the wire bytes of its type and payload, and such bytes with a right length byte are
valid. -/
theorem validFramesCharacterized : Obligations.ValidFramesCharacterized := by
  intro raw
  refine ⟨⟨fun h => ?_, ?_⟩, fun h => ?_⟩
  · have hfits := payload_length_of_validate h
    exact ⟨lengthByte (raw.drop 4).length, byteAt raw 2, raw.drop 4, (wireBytes_of_validate h).symm,
      lengthByte_toNat hfits⟩
  · rintro ⟨l, ty, payload, rfl, hl⟩
    have hfits : payload.length ≤ 253 := by have := l.isLt; omega
    obtain rfl : l = lengthByte payload.length := BitVec.eq_of_toNat_eq (by rw [hl, lengthByte_toNat hfits])
    exact validate_wireBytes ty hfits
  · obtain ⟨hge, hle, -⟩ := length_and_checksum_of_validate h
    exact ⟨hge, hle⟩

end Sys2Proof.Machine
end

section
/-! SUPPORT. The script lines `RXF` and `RXFS`, and a frame class as the reception of its bytes (30_encoding.md R87, R91). -/

namespace Sys2Proof.Machine

/-! ### `RXF` and `RXFS` -/

/-- The state after the bytes are taken one by one. -/
def takeBytes (bs : List Byte) (s : State) : State := bs.foldl (fun t b => rxByte b t) s

@[simp] theorem takeBytes_nil (s : State) : takeBytes [] s = s := rfl

@[simp] theorem takeBytes_cons (b : Byte) (bs : List Byte) (s : State) :
    takeBytes (b :: bs) s = takeBytes bs (rxByte b s) := rfl

/-- `RXF` takes the bytes and ends the frame (R91). -/
theorem runInstrs_rxf (bs : List Byte) (now : Ts) (s : State) :
    runInstrs (rxf bs now) s = .next (rxEnd now (takeBytes bs s)) := by
  induction bs, now using rxf.induct generalizing s with
  | case1 now => rfl
  | case2 b now => rfl
  | case3 b c bs now ih => rw [rxf, runInstrs_cons_next (exec_rxb b s), ih, ← takeBytes_cons]

/-- `RXFS` does the same, the end in a step of its own (R91). -/
theorem runInstrs_rxfs (bs : List Byte) (now : Ts) (s : State) :
    runInstrs (rxfs bs now) s = .next (rxEnd now (takeBytes bs s)) := by
  induction bs generalizing s with
  | nil => rfl
  | cons b bs ih =>
    have hcons : rxfs (b :: bs) now = .rxb b :: rxfs bs now := rfl
    rw [hcons, runInstrs_cons_next (exec_rxb b s), ih, takeBytes_cons]

/-- `RXF` of at least one byte has one event a byte (R91). -/
theorem rxf_length {bs : List Byte} (now : Ts) (h : bs ≠ []) : (rxf bs now).length = bs.length := by
  induction bs, now using rxf.induct with
  | case1 now => exact absurd rfl h
  | case2 b now => rfl
  | case3 b c bs now ih => simp [rxf, ih]

/-- Settles O47: `RXF` and `RXFS` both take the bytes and end the frame. -/
theorem macrosAgree : Obligations.MacrosAgree := by
  intro bs now s
  exact ⟨⟨_, runInstrs_rxf bs now s, runInstrs_rxfs bs now s⟩, rxf_length now, by simp [rxfs]⟩

/-! ### A frame taken byte by byte -/

/-- An idle unit that takes the bytes has taken exactly them (10_state.md R37). -/
theorem rxTracks_takeBytes (bs : List Byte) {s : State} (h : RxTracks [] s) : RxTracks bs (takeBytes bs s) := by
  induction bs using List.reverseRecOn with
  | nil => exact h
  | append_singleton bs b ih =>
    rw [takeBytes, List.foldl_append]
    exact rxTracks_rxByte b ih

@[simp] theorem takeBytes_params (bs : List Byte) (s : State) : (takeBytes bs s).params = s.params := by
  induction bs generalizing s with
  | nil => rfl
  | cons b bs ih => rw [takeBytes_cons, ih, rxByte_params]

/-- Ending a frame writes no buffer byte, so it does not matter whether bytes are stored before or after. -/
theorem storeFrom_endFrame (i : Nat) (raw : List Byte) (r : Result Message) (s : State) :
    storeFrom i raw (endFrame r s) = endFrame r (storeFrom i raw s) := by
  induction raw generalizing i s with
  | nil => rfl
  | cons b raw ih =>
    unfold storeFrom
    split
    · exact ih (i + 1) (memWrite .rxbuf i b s)
    · exact ih (i + 1) s

/-- A byte taken before the end of its frame leaves its place in RXBUF and nothing else (40_frame_rx.md R105, R106). -/
theorem endFrame_rxByte (r : Result Message) (b : Byte) {s : State} (h : s.rx.cnt.toNat < Config.bufBytes) :
    endFrame r (rxByte b s) = memWrite .rxbuf s.rx.cnt.toNat b (endFrame r s) := by
  rw [rxByte, if_pos h]
  rfl

/-- Bytes that fit RXBUF, taken one by one and the frame ended, are stored from the count on (R105, R108). -/
theorem endFrame_takeBytes (r : Result Message) (bs : List Byte) {s : State}
    (h : s.rx.cnt.toNat + bs.length ≤ Config.bufBytes) :
    endFrame r (takeBytes bs s) = storeFrom s.rx.cnt.toNat bs (endFrame r s) := by
  induction bs generalizing s with
  | nil => rfl
  | cons b bs ih =>
    simp only [List.length_cons, Config.bufBytes] at h
    have hroom : s.rx.cnt.toNat < Config.bufBytes := by simp only [Config.bufBytes]; omega
    have hcnt : (rxByte b s).rx.cnt.toNat = s.rx.cnt.toNat + 1 := by simp [Config.cntSat]; omega
    rw [takeBytes_cons, ih (by rw [hcnt]; simp only [Config.bufBytes]; omega), hcnt, endFrame_rxByte r b hroom,
      storeFrom, if_pos hroom]

/-- From an idle unit, the bytes of a valid frame taken one by one and ended are the frame received whole (R108, log
entry 9). -/
theorem rxEnd_takeBytes {raw : List Byte} {s : State} (now : Ts) (hcnt : s.rx.cnt = 0) (hacc : s.rx.acc = 0)
    (hvalid : validate raw = .ok ()) :
    rxEnd now (takeBytes raw s) = receiveFrame raw (classify s.params raw now) s := by
  obtain ⟨-, hle, -⟩ := length_and_checksum_of_validate hvalid
  rw [rxEnd, rxResult_of_rxTracks now (rxTracks_takeBytes raw (rxTracks_nil hcnt hacc)), takeBytes_params,
    endFrame_takeBytes _ raw (by simpa [hcnt] using hle), storeFrom_endFrame, hcnt]
  rfl

/-! ### A frame class is the reception of a valid frame -/

/-- A well-formed frame class encodes to a valid frame, and its meaning is the reception of that frame with `classify`'s
answer on it (R87, 41_dispatch.md R130). -/
theorem valid_and_exec_of_encode_frame {i : Instr} {raw : List Byte} {now : Ts} {s : State} (hwf : i.wf s.params = true)
    (henc : encode i = .frame raw now) :
    validate raw = .ok () ∧ exec i s = .next (receiveFrame raw (classify s.params raw now) s) := by
  cases i with
  | sensorTh f now | sensorT f now =>
    obtain ⟨hf, -⟩ := Bool.and_eq_true_iff.1 hwf
    cases henc
    exact ⟨validate_sensorBytes _ f, by rw [classify_sensorBytes hf]; rfl⟩
  | generic typ payload now =>
    simp only [Instr.wf, Bool.and_eq_true] at hwf
    obtain ⟨⟨hfits, hunclaimed⟩, -⟩ := hwf
    cases henc
    exact ⟨validate_wireBytes typ (of_decide_eq_true hfits),
      by rw [classify_wireBytes_of_unclaimed hfits hunclaimed]; rfl⟩
  | rst | nop | rxb | rxe | rxbe | txb | txe | txbe => cases henc

/-- Settles O32: the frame class, `RXF` and `RXFS` all receive the same valid frame. -/
theorem frameClassesAreStreamedFrames : Obligations.FrameClassesAreStreamedFrames := by
  intro s i raw now hcnt hacc hwf henc
  obtain ⟨hvalid, hexec⟩ := valid_and_exec_of_encode_frame hwf henc
  have hstream := rxEnd_takeBytes now hcnt hacc hvalid
  exact ⟨_, hexec, by rw [runInstrs_rxf, hstream], by rw [runInstrs_rxfs, hstream]⟩

end Sys2Proof.Machine
end

section
/-! SUPPORT. The fields of a sensor-reading frame and its bytes, both ways, and the class of a valid frame
(30_encoding.md R73, R87). -/

namespace Sys2Proof.Machine

/-! ### A byte and its parts -/

@[simp] theorem hiNibble_append (h l : Nibble) : hiNibble (h ++ l) = h := BitVec.extractLsb'_append_eq_left

@[simp] theorem loNibble_append (h l : Nibble) : loNibble (h ++ l) = l := BitVec.extractLsb'_append_eq_right

@[simp] theorem hiNibble_append_loNibble (b : Byte) : hiNibble b ++ loNibble b = b :=
  (BitVec.extractLsb'_append_extractLsb'_eq_extractLsb' (by rfl)).trans BitVec.extractLsb'_eq_self

/-- The two bytes of a 16-bit field make the field again (R73). -/
@[simp] theorem append_bytes_of_word (x : BitVec 16) : x.extractLsb' 8 8 ++ x.extractLsb' 0 8 = x :=
  (BitVec.extractLsb'_append_extractLsb'_eq_extractLsb' (by rfl)).trans BitVec.extractLsb'_eq_self

@[simp] theorem highByte_append (h l : Byte) : (h ++ l).extractLsb' 8 8 = h := BitVec.extractLsb'_append_eq_left

@[simp] theorem lowByte_append (h l : Byte) : (h ++ l).extractLsb' 0 8 = l := BitVec.extractLsb'_append_eq_right

/-- The status byte of the three flags and the five bits below them (42_sensor_decode.md R155). -/
def statusByte (neg battNew battLow : Bool) (low : BitVec 5) : Byte :=
  BitVec.ofBool neg ++ BitVec.ofBool battNew ++ BitVec.ofBool battLow ++ low

section
variable (neg battNew battLow : Bool) (low : BitVec 5)

theorem statusByte_neg : (statusByte neg battNew battLow low).getLsbD 7 = neg := by
  simp only [statusByte, BitVec.getLsbD_append]; simp

theorem statusByte_battNew : (statusByte neg battNew battLow low).getLsbD 6 = battNew := by
  simp only [statusByte, BitVec.getLsbD_append]; simp

theorem statusByte_battLow : (statusByte neg battNew battLow low).getLsbD 5 = battLow := by
  simp only [statusByte, BitVec.getLsbD_append]; simp

theorem statusByte_low : (statusByte neg battNew battLow low).extractLsb' 0 5 = low :=
  BitVec.extractLsb'_append_eq_right

end

/-- A byte is the status byte of its own flags. -/
theorem statusByte_of_bits (b : Byte) :
    statusByte (b.getLsbD 7) (b.getLsbD 6) (b.getLsbD 5) (b.extractLsb' 0 5) = b := by
  apply BitVec.eq_of_getLsbD_eq
  intro i hi
  interval_cases i <;> (simp only [statusByte, BitVec.getLsbD_append]; simp)

/-! ### The fields of a frame and its bytes -/

/-- The frame with the fields `f` has the low nibble of its class (R73). -/
@[simp] theorem subOf_sensorBytes (sub : Bool) (f : SensorFrame) : subOf (sensorBytes sub f) = subNibble sub :=
  loNibble_append f.const5hi (subNibble sub)

theorem subNibble_bit (sub : Bool) : (subNibble sub).getLsbD 0 = sub := by
  cases sub <;> rfl

/-- The fields read from the frame with the fields `f` are `f` (R73). -/
@[simp] theorem sensorFields_sensorBytes (sub : Bool) (f : SensorFrame) : sensorFields (sensorBytes sub f) = f := by
  have hstatus : byteAt (sensorBytes sub f) 12 = statusByte f.neg f.battNew f.battLow f.statusLow := rfl
  simp only [sensorFields, hstatus, statusByte_neg, statusByte_battNew, statusByte_battLow, statusByte_low]
  simp [byteAt, sensorBytes, wireBytes, toBytes, sensorPayload]

/-- The payload of a 16-byte frame, byte by byte. -/
theorem drop_four_of_length {raw : List Byte} (h : raw.length = 16) :
    raw.drop 4 = [byteAt raw 4, byteAt raw 5, byteAt raw 6, byteAt raw 7, byteAt raw 8, byteAt raw 9, byteAt raw 10,
      byteAt raw 11, byteAt raw 12, byteAt raw 13, byteAt raw 14, byteAt raw 15] := by
  refine List.ext_getElem (by simp [h]) fun i hi _ => ?_
  simp only [List.length_drop, h] at hi
  interval_cases i <;> simp [byteAt, h]

/-- The payload put together from the fields of a 16-byte frame with the low nibble of the class is the frame's (R73). -/
theorem sensorPayload_sensorFields {raw : List Byte} {sub : Bool} (hlen : raw.length = 16)
    (hsub : subOf raw = subNibble sub) : sensorPayload sub (sensorFields raw) = raw.drop 4 := by
  have hbyte5 : hiNibble (byteAt raw 5) ++ subNibble sub = byteAt raw 5 := by
    rw [← hsub]
    exact hiNibble_append_loNibble _
  have hstatus := by simpa [statusByte] using statusByte_of_bits (byteAt raw 12)
  rw [drop_four_of_length hlen]
  simp [sensorPayload, sensorFields, hbyte5, hstatus]

/-- A valid 16-byte frame with the low nibble of the class is the frame with its own fields (R73, 43_frame_tx.md R183). -/
theorem sensorBytes_sensorFields {raw : List Byte} {sub : Bool} (hvalid : validate raw = .ok ()) (hlen : raw.length = 16)
    (hsub : subOf raw = subNibble sub) : sensorBytes sub (sensorFields raw) = raw := by
  rw [sensorBytes, sensorPayload_sensorFields hlen hsub]
  exact wireBytes_of_validate hvalid

/-! ### The class of a frame -/

theorem frameInstr_of_not_claimed {p : Config.Params} {raw : List Byte} (h : claimed p raw = false) (now : Ts) :
    frameInstr p raw now = .generic (byteAt raw 2) (raw.drop 4) now := by
  simp [frameInstr, frameClass, h]

/-- The class of a claimed frame is the value of its low nibble, which is 0 or 1 (R87, 42_sensor_decode.md R150). -/
theorem frameInstr_of_claimed {p : Config.Params} {raw : List Byte} {sub : Bool} (h : claimed p raw = true)
    (hsub : subOf raw = subNibble sub) (now : Ts) :
    frameInstr p raw now = if sub then .sensorT (sensorFields raw) now else .sensorTh (sensorFields raw) now := by
  simp only [frameInstr, frameClass, h, hsub, subNibble_bit]
  cases sub <;> rfl

/-- A claimed frame has 16 bytes and one of the two low nibbles (R150). -/
theorem length_and_sub_of_claimed {p : Config.Params} {raw : List Byte} (h : claimed p raw = true) :
    raw.length = 16 ∧ ∃ sub, subOf raw = subNibble sub := by
  obtain ⟨-, haccepts⟩ := (claimed_iff p raw).1 h
  simp only [acceptsSensor, Bool.and_eq_true, beq_iff_eq, decide_eq_true_eq] at haccepts
  obtain ⟨⟨hlen, -⟩, hsub⟩ := haccepts
  refine ⟨hlen, (subOf raw).getLsbD 0, ?_⟩
  generalize subOf raw = n at hsub
  revert n
  decide

/-- A valid byte sequence decodes to its one frame class (R87). -/
theorem decode_frame_of_validate {raw : List Byte} (p : Config.Params) (now : Ts) (h : validate raw = .ok ()) :
    decode p (.frame raw now) = .ok [frameInstr p raw now] := by
  simp [decode, decodeFrame, h]

/-- Settles O4: an event word by its strobes, a frame by its class and its fields. -/
theorem decodeEncodeAgree : Obligations.DecodeEncodeAgree := by
  intro p i hwf
  have hsensor {sub : Bool} {f : SensorFrame} (hf : f.wf p sub = true) (now : Ts) :
      decode p (.frame (sensorBytes sub f) now) = .ok [if sub then .sensorT f now else .sensorTh f now] := by
    rw [decode_frame_of_validate p now (validate_sensorBytes sub f),
      frameInstr_of_claimed hf (subOf_sensorBytes sub f), sensorFields_sensorBytes]
  cases i with
  | rst | nop | rxb | rxe | rxbe | txb | txe | txbe => exact congrArg _ (eventsOf_of_encode rfl)
  | sensorTh f now | sensorT f now => exact hsensor (Bool.and_eq_true_iff.1 hwf).1 now
  | generic typ payload now =>
    simp only [Instr.wf, Bool.and_eq_true] at hwf
    obtain ⟨⟨hfits, hunclaimed⟩, -⟩ := hwf
    rw [encode, decode_frame_of_validate p now (validate_wireBytes typ (of_decide_eq_true hfits)),
      frameInstr_of_not_claimed (by simpa [genericUnclaimed] using hunclaimed)]
    rfl

/-- The class of a valid frame is no event, encodes to the frame, and is well formed where its time stamp is (R87). -/
theorem frameInstr_of_validate {raw : List Byte} (p : Config.Params) (now : Ts) (h : validate raw = .ok ()) :
    (frameInstr p raw now).isEvent = false ∧ ((frameInstr p raw now).wf p = true ↔ fitsTs p now = true) ∧
      encode (frameInstr p raw now) = .frame raw now := by
  cases hclaimed : claimed p raw with
  | false =>
    have hraw := wireBytes_of_validate h
    have hfits : genericFits (raw.drop 4) = true := decide_eq_true (payload_length_of_validate h)
    rw [frameInstr_of_not_claimed hclaimed]
    exact ⟨rfl, by simp [Instr.wf, hfits, genericUnclaimed, hraw, hclaimed], by rw [encode, hraw]⟩
  | true =>
    obtain ⟨hlen, sub, hsub⟩ := length_and_sub_of_claimed hclaimed
    have hraw := sensorBytes_sensorFields h hlen hsub
    rw [frameInstr_of_claimed hclaimed hsub]
    cases sub <;>
      exact ⟨rfl, by simp [Instr.wf, SensorFrame.wf, hraw, hclaimed], congrArg (Encoded.frame · now) hraw⟩

/-- Settles O5: decoding refuses what `validate` refuses, and otherwise answers the class of the frame. -/
theorem encodeOfDecodedFrameAgrees : Obligations.EncodeOfDecodedFrameAgrees := by
  intro p raw now
  exact ⟨fun e he => by simp [decode, decodeFrame, he],
    fun h => ⟨_, decode_frame_of_validate p now h, frameInstr_of_validate p now h⟩⟩

end Sys2Proof.Machine
end

section
/-! SUPPORT. The rows of the event table and the ignored fields of an event word (30_encoding.md R80 to R84). -/

namespace Sys2Proof.Machine

/-! ### The rows of the table, by mask and match -/

/-- What a mask of strobe bits asks of a word is what it asks of the five strobes (R80). -/
theorem strobe_row_iff (x : EventWord) (k m : BitVec 5) (P : Bool → Bool → Bool → Bool → Bool → Prop)
    (h : ∀ rst txEnd txValid rxEnd rxValid, BitVec.ofBool rst ++ BitVec.ofBool txEnd ++ BitVec.ofBool txValid ++
      BitVec.ofBool rxEnd ++ BitVec.ofBool rxValid &&& k = m ↔ P rst txEnd txValid rxEnd rxValid) :
    x &&& packEventWord k 0 0 0 = packEventWord m 0 0 0 ↔
      P (ewRst x) (ewTxEnd x) (ewTxValid x) (ewRxEnd x) (ewRxValid x) := by
  rw [mask_iff_strobes, strobes_eq, h]

theorem rst_row_iff (x : EventWord) : x &&& 0x10000000#29 = 0x10000000#29 ↔ ewRst x = true :=
  strobe_row_iff x 0b10000 0b10000 (fun rst _ _ _ _ => rst = true) (by decide)

theorem nop_row_iff (x : EventWord) : x &&& 0x1f000000#29 = 0x00000000#29 ↔
    ewRst x = false ∧ (ewRxEnd x = false ∧ ewRxValid x = false) ∧ ewTxEnd x = false ∧ ewTxValid x = false :=
  strobe_row_iff x 0b11111 0b00000 (fun rst txEnd txValid rxEnd rxValid =>
    rst = false ∧ (rxEnd = false ∧ rxValid = false) ∧ txEnd = false ∧ txValid = false) (by decide)

/-- The match of a receive row is its two strobes (R81). -/
theorem receive_row_iff (x : EventWord) (e v : Bool) :
    x &&& 0x13000000#29 = packEventWord (0b000#3 ++ BitVec.ofBool e ++ BitVec.ofBool v) 0 0 0 ↔
      ewRst x = false ∧ ewRxEnd x = e ∧ ewRxValid x = v :=
  strobe_row_iff x 0b10011 _ (fun rst _ _ rxEnd rxValid => rst = false ∧ rxEnd = e ∧ rxValid = v)
    (by revert e v; decide)

/-- The match of a transmit row is its two strobes (R81). -/
theorem transmit_row_iff (x : EventWord) (e v : Bool) :
    x &&& 0x1c000000#29 = packEventWord (0b0#1 ++ BitVec.ofBool e ++ BitVec.ofBool v ++ 0b00#2) 0 0 0 ↔
      ewRst x = false ∧ ewTxEnd x = e ∧ ewTxValid x = v :=
  strobe_row_iff x 0b11100 _ (fun rst txEnd txValid _ _ => rst = false ∧ txEnd = e ∧ txValid = v)
    (by revert e v; decide)

/-! ### The event of each group -/

theorem receiveEvent_eq_none_iff {inp : Input} :
    receiveEvent inp = none ↔ ewRxEnd inp.ew = false ∧ ewRxValid inp.ew = false := by
  unfold receiveEvent
  split <;> simp_all

theorem transmitEvent_eq_none_iff {inp : Input} :
    transmitEvent inp = none ↔ ewTxEnd inp.ew = false ∧ ewTxValid inp.ew = false := by
  unfold transmitEvent
  split <;> simp_all

/-- The receive event, by its two strobes (R81). -/
theorem receiveEvent_eq_some_iff {inp : Input} {i : Instr} : receiveEvent inp = some i ↔
    ((ewRxEnd inp.ew = false ∧ ewRxValid inp.ew = true) ∧ i = .rxb (ewRxData inp.ew)) ∨
    ((ewRxEnd inp.ew = true ∧ ewRxValid inp.ew = false) ∧ i = .rxe inp.now) ∨
    ((ewRxEnd inp.ew = true ∧ ewRxValid inp.ew = true) ∧ i = .rxbe (ewRxData inp.ew) inp.now) := by
  unfold receiveEvent
  split <;> (rename_i hend hvalid; simp [hend, hvalid, eq_comm (b := i)])

/-- The transmit event, by its two strobes (R81). -/
theorem transmitEvent_eq_some_iff {inp : Input} {i : Instr} : transmitEvent inp = some i ↔
    ((ewTxEnd inp.ew = false ∧ ewTxValid inp.ew = true) ∧ i = .txb (ewTxData inp.ew)) ∨
    ((ewTxEnd inp.ew = true ∧ ewTxValid inp.ew = false) ∧ i = .txe (ewTxType inp.ew)) ∨
    ((ewTxEnd inp.ew = true ∧ ewTxValid inp.ew = true) ∧ i = .txbe (ewTxData inp.ew) (ewTxType inp.ew)) := by
  unfold transmitEvent
  split <;> (rename_i hend hvalid; simp [hend, hvalid, eq_comm (b := i)])

/-- The event of the receive group is an event that acts on the receive unit alone. -/
theorem isReceive_of_receiveEvent {inp : Input} {i : Instr} (h : receiveEvent inp = some i) :
    isReceive i = true ∧ isTransmit i = false ∧ i.isEvent = true := by
  rcases receiveEvent_cases h with ⟨rfl, -⟩ | ⟨rfl, -⟩ | ⟨rfl, -⟩ <;> exact ⟨rfl, rfl, rfl⟩

/-- The event of the transmit group is an event that acts on the transmit unit alone. -/
theorem isTransmit_of_transmitEvent {inp : Input} {i : Instr} (h : transmitEvent inp = some i) :
    isTransmit i = true ∧ isReceive i = false ∧ i.isEvent = true := by
  rcases transmitEvent_cases h with ⟨rfl, -⟩ | ⟨rfl, -⟩ | ⟨rfl, -⟩ <;> exact ⟨rfl, rfl, rfl⟩

/-! ### The events of a word, group by group -/

/-- The events of a word that act on the receive unit: the one of its group, unless `rst` overrides it (R81, R82). -/
theorem filter_isReceive_eventsOf (inp : Input) :
    (eventsOf inp).filter isReceive = if ewRst inp.ew then [] else (receiveEvent inp).toList := by
  unfold eventsOf
  split
  · rfl
  split
  · simp [*, isReceive]
  next hr ht => simp [hr, isReceive_of_receiveEvent hr]
  next hr ht => simp [hr, isTransmit_of_transmitEvent ht]
  next hr ht => simp [hr, isReceive_of_receiveEvent hr, isTransmit_of_transmitEvent ht]

/-- The events of a word that act on the transmit unit (R81, R82). -/
theorem filter_isTransmit_eventsOf (inp : Input) :
    (eventsOf inp).filter isTransmit = if ewRst inp.ew then [] else (transmitEvent inp).toList := by
  unfold eventsOf
  split
  · rfl
  split
  · simp [*, isTransmit]
  next hr ht => simp [ht, isReceive_of_receiveEvent hr]
  next hr ht => simp [ht, isTransmit_of_transmitEvent ht]
  next hr ht => simp [ht, isReceive_of_receiveEvent hr, isTransmit_of_transmitEvent ht]

/-- An event of the receive group is among the events of a word exactly where one of the three rows selects it (R81). -/
theorem mem_eventsOf_of_isReceive {inp : Input} {i : Instr} (hi : isReceive i = true) : i ∈ eventsOf inp ↔
    (inp.ew &&& 0x13000000#29 = 0x01000000#29 ∧ i = .rxb (ewRxData inp.ew)) ∨
    (inp.ew &&& 0x13000000#29 = 0x02000000#29 ∧ i = .rxe inp.now) ∨
    (inp.ew &&& 0x13000000#29 = 0x03000000#29 ∧ i = .rxbe (ewRxData inp.ew) inp.now) := by
  have hrxb : inp.ew &&& 0x13000000#29 = 0x01000000#29 ↔ _ := receive_row_iff inp.ew false true
  have hrxe : inp.ew &&& 0x13000000#29 = 0x02000000#29 ↔ _ := receive_row_iff inp.ew true false
  have hrxbe : inp.ew &&& 0x13000000#29 = 0x03000000#29 ↔ _ := receive_row_iff inp.ew true true
  calc i ∈ eventsOf inp
    _ ↔ i ∈ (eventsOf inp).filter isReceive := by simp [hi]
    _ ↔ ewRst inp.ew = false ∧ receiveEvent inp = some i := by
      rw [filter_isReceive_eventsOf]
      cases ewRst inp.ew <;> simp
    _ ↔ _ := by
      simp only [receiveEvent_eq_some_iff, hrxb, hrxe, hrxbe, and_or_left, and_assoc]

/-- The same for an event of the transmit group (R81). -/
theorem mem_eventsOf_of_isTransmit {inp : Input} {i : Instr} (hi : isTransmit i = true) : i ∈ eventsOf inp ↔
    (inp.ew &&& 0x1c000000#29 = 0x04000000#29 ∧ i = .txb (ewTxData inp.ew)) ∨
    (inp.ew &&& 0x1c000000#29 = 0x08000000#29 ∧ i = .txe (ewTxType inp.ew)) ∨
    (inp.ew &&& 0x1c000000#29 = 0x0c000000#29 ∧ i = .txbe (ewTxData inp.ew) (ewTxType inp.ew)) := by
  have htxb : inp.ew &&& 0x1c000000#29 = 0x04000000#29 ↔ _ := transmit_row_iff inp.ew false true
  have htxe : inp.ew &&& 0x1c000000#29 = 0x08000000#29 ↔ _ := transmit_row_iff inp.ew true false
  have htxbe : inp.ew &&& 0x1c000000#29 = 0x0c000000#29 ↔ _ := transmit_row_iff inp.ew true true
  calc i ∈ eventsOf inp
    _ ↔ i ∈ (eventsOf inp).filter isTransmit := by simp [hi]
    _ ↔ ewRst inp.ew = false ∧ transmitEvent inp = some i := by
      rw [filter_isTransmit_eventsOf]
      cases ewRst inp.ew <;> simp
    _ ↔ _ := by
      simp only [transmitEvent_eq_some_iff, htxb, htxe, htxbe, and_or_left, and_assoc]

/-- `RST` is among the events of a word where `rst` is set (R81). -/
theorem rst_mem_eventsOf_iff {inp : Input} : .rst ∈ eventsOf inp ↔ ewRst inp.ew = true := by
  rw [mem_eventsOf_iff]
  constructor
  · rintro (⟨hrst, -⟩ | ⟨-, h | h | ⟨-, -, h⟩⟩)
    · exact hrst
    · cases (isReceive_of_receiveEvent h).1
    · cases (isTransmit_of_transmitEvent h).1
    · cases h
  · exact fun h => .inl ⟨h, rfl⟩

/-- `NOP` is among the events of a word where neither group has one (R81). -/
theorem nop_mem_eventsOf_iff {inp : Input} : .nop ∈ eventsOf inp ↔
    ewRst inp.ew = false ∧ receiveEvent inp = none ∧ transmitEvent inp = none := by
  rw [mem_eventsOf_iff]
  constructor
  · rintro (⟨-, h⟩ | ⟨hrst, h | h | ⟨hrx, htx, -⟩⟩)
    · cases h
    · cases (isReceive_of_receiveEvent h).1
    · cases (isTransmit_of_transmitEvent h).1
    · exact ⟨hrst, hrx, htx⟩
  · exact fun ⟨hrst, hrx, htx⟩ => .inr ⟨hrst, .inr (.inr ⟨hrx, htx, rfl⟩)⟩

/-- Every word has an event (R81). -/
theorem eventsOf_ne_nil (inp : Input) : eventsOf inp ≠ [] := by
  unfold eventsOf
  split
  · simp
  · split <;> simp

/-- Every event of a word is an event, not a frame class (R81, R87). -/
theorem isEvent_of_mem_eventsOf {inp : Input} {i : Instr} (h : i ∈ eventsOf inp) : i.isEvent = true := by
  rcases mem_eventsOf_iff.1 h with ⟨-, rfl⟩ | ⟨-, h | h | ⟨-, -, rfl⟩⟩
  · rfl
  · obtain ⟨-, -, hevent⟩ := isReceive_of_receiveEvent h
    exact hevent
  · obtain ⟨-, -, hevent⟩ := isTransmit_of_transmitEvent h
    exact hevent
  · rfl

/-- Settles O2: each row by the mask and the match of its group, the counts from the group's one event. -/
theorem eventTableSelectsEvents : Obligations.EventTableSelectsEvents := by
  intro inp
  refine ⟨rst_mem_eventsOf_iff.trans (rst_row_iff inp.ew).symm, ?nop, fun b => ?_, fun t => ?_, fun b t => ?_,
    fun b => ?_, fun t => ?_, fun b t => ?_, eventsOf_ne_nil inp, ?receiveCount, ?transmitCount, fun h => ?rstAlone,
    fun h => ?nopAlone, fun i => isEvent_of_mem_eventsOf⟩
  case nop => rw [nop_mem_eventsOf_iff, receiveEvent_eq_none_iff, transmitEvent_eq_none_iff, nop_row_iff]
  case receiveCount =>
    rw [filter_isReceive_eventsOf]
    cases ewRst inp.ew <;> cases receiveEvent inp <;> simp
  case transmitCount =>
    rw [filter_isTransmit_eventsOf]
    cases ewRst inp.ew <;> cases transmitEvent inp <;> simp
  case rstAlone => simp [eventsOf, rst_mem_eventsOf_iff.1 h]
  case nopAlone =>
    obtain ⟨hrst, hrx, htx⟩ := nop_mem_eventsOf_iff.1 h
    simp [eventsOf, hrst, hrx, htx]
  · simpa [ewRxData] using mem_eventsOf_of_isReceive (inp := inp) (i := .rxb b) rfl
  · simpa using mem_eventsOf_of_isReceive (inp := inp) (i := .rxe t) rfl
  · simpa [ewRxData] using mem_eventsOf_of_isReceive (inp := inp) (i := .rxbe b t) rfl
  · simpa [ewTxData] using mem_eventsOf_of_isTransmit (inp := inp) (i := .txb b) rfl
  · simpa [ewTxType] using mem_eventsOf_of_isTransmit (inp := inp) (i := .txe t) rfl
  · simpa [ewTxData, ewTxType] using mem_eventsOf_of_isTransmit (inp := inp) (i := .txbe b t) rfl

/-! ### Ignored fields -/

/-- The receive event does not depend on the fields whose strobe is 0 (R84). -/
theorem receiveEvent_congr {a b : Input} (hend : ewRxEnd a.ew = ewRxEnd b.ew) (hvalid : ewRxValid a.ew = ewRxValid b.ew)
    (hdata : ewRxValid a.ew = true → ewRxData a.ew = ewRxData b.ew) (hnow : ewRxEnd a.ew = true → a.now = b.now) :
    receiveEvent a = receiveEvent b := by
  unfold receiveEvent
  rw [← hend, ← hvalid]
  split <;> simp_all

/-- The transmit event does not depend on the fields whose strobe is 0 (R84). -/
theorem transmitEvent_congr {a b : Input} (hend : ewTxEnd a.ew = ewTxEnd b.ew)
    (hvalid : ewTxValid a.ew = ewTxValid b.ew) (htype : ewTxEnd a.ew = true → ewTxType a.ew = ewTxType b.ew)
    (hdata : ewTxValid a.ew = true → ewTxData a.ew = ewTxData b.ew) : transmitEvent a = transmitEvent b := by
  unfold transmitEvent
  rw [← hend, ← hvalid]
  split <;> simp_all

/-- Settles O3: the events depend on `rst` and the two groups alone, and each encoded word is written out. -/
theorem ignoredFieldsAreIgnored : Obligations.IgnoredFieldsAreIgnored := by
  refine ⟨fun a b ha hb => by simp [eventsOf, ha, hb], ?_, fun i inp henc => ?_⟩
  · intro a b hrst htxEnd htxValid hrxEnd hrxValid htype htxData hrxData hnow
    rw [eventsOf, eventsOf, hrst, receiveEvent_congr hrxEnd hrxValid hrxData hnow,
      transmitEvent_congr htxEnd htxValid htype htxData]
  · cases i with
    | rst => cases henc; exact ⟨by simp, by simp, by simp, fun _ => rfl⟩
    | nop | rxb | rxe | rxbe | txb | txe | txbe => cases henc; simp
    | sensorTh | sensorT | generic => cases henc

end Sys2Proof.Machine
end

section
/-! SUPPORT. What a step leaves in the result registers, and the time stamp it latches (10_state.md R25, 30_encoding.md
R83). -/

namespace Sys2Proof.Machine

/-- The events of a word without `rst` leave the result registers that its receive event leaves (20_memory.md R60). -/
theorem res_of_run_eventsOf {inp : Input} (s : State) (hrst : ewRst inp.ew = false) :
    ((eventsOf inp).foldl (fun t i => nextState i t) s).res = ((receiveEvent inp).elim s (nextState · s)).res := by
  have htransmit {i : Instr} (h : transmitEvent inp = some i) (t : State) : (nextState i t).res = t.res :=
    (nextState_of_isTransmit (isTransmit_of_transmitEvent h).1 t).2
  rw [eventsOf, if_neg (by simp [hrst])]
  split
  · simp [*, nextState]
  next hr _ => simp [hr]
  next hr ht => simp [hr, htransmit ht]
  next hr ht => simp [hr, htransmit ht]

/-- Whatever the state, a frame end gives an error or a message with `now` as its time stamp (40_frame_rx.md R106). -/
theorem rxResult_cases (now : Ts) (s : State) :
    (∃ e, rxResult now s = .error e) ∨ ∃ m, rxResult now s = .ok m ∧ m.frame.receivedAt = now := by
  unfold rxResult
  split
  · exact .inl ⟨_, rfl⟩
  split
  · exact .inl ⟨_, rfl⟩
  split
  · exact .inl ⟨_, rfl⟩
  split
  · exact .inl ⟨_, rfl⟩
  rcases classifyValid_cases s.params (heldFrame s) now with h | h | ⟨r, h, hframe, -⟩
  · exact .inr ⟨_, h, rfl⟩
  · exact .inl ⟨_, h⟩
  · exact .inr ⟨_, h, congrArg Frame.receivedAt hframe⟩

@[simp] theorem resultRegs_ok_resErr (m : Message) : (resultRegs (.ok m)).resErr = 0 := by
  cases m <;> rfl

/-- A frame end latches `now`, and with an error the absence encoding 0 (10_state.md R25, R26). -/
theorem resTime_of_rxEnd (now : Ts) (s : State) :
    ((rxEnd now s).res.resErr = 0 ∧ (rxEnd now s).res.resTime = now) ∨
    ((rxEnd now s).res.resErr ≠ 0 ∧ (rxEnd now s).res.resTime = 0) := by
  rw [rxEnd_res]
  rcases rxResult_cases now s with ⟨e, h⟩ | ⟨m, h, hnow⟩
  · exact .inr (by rw [h]; exact ⟨e.code_ne_zero, rfl⟩)
  · exact .inl (by simp [h, hnow])

/-- A word with `rx_end` ends a frame at its `now` (30_encoding.md R81, 40_frame_rx.md R107). -/
theorem receive_of_rxEnd {inp : Input} (hend : ewRxEnd inp.ew = true) (s : State) :
    ∃ u, (receiveEvent inp).elim s (nextState · s) = rxEnd inp.now u := by
  cases hvalid : ewRxValid inp.ew <;> simp only [receiveEvent, hend, hvalid] <;> exact ⟨_, rfl⟩

/-- A word without `rx_end` leaves the result registers (70_reset_and_hazards.md R235). -/
theorem res_of_receive_of_not_rxEnd {inp : Input} (hend : ewRxEnd inp.ew = false) (s : State) :
    ((receiveEvent inp).elim s (nextState · s)).res = s.res := by
  cases hvalid : ewRxValid inp.ew <;> simp [receiveEvent, hend, hvalid, nextState]

/-- Settles O54: of the step's events only the receive event writes `res_time`, with what the port passes on. -/
theorem timeStampIsSampledAtFrameEnd : Obligations.TimeStampIsSampledAtFrameEnd := by
  intro s inp rest hscript hrst
  have hres := res_of_run_eventsOf (inp := atPorts s.params inp) { s with script := rest } hrst
  refine ⟨_, by rw [step_of_script_cons hscript, runInstrs_eq_foldl], fun hend => ?_, fun hend => ?_⟩
  · obtain ⟨u, hu⟩ := receive_of_rxEnd (inp := atPorts s.params inp) hend { s with script := rest }
    have hpos : 0 < 2 ^ s.params.tsW := Nat.two_pow_pos _
    rw [hres, hu]
    rcases resTime_of_rxEnd (atPorts s.params inp).now u with ⟨herr, htime⟩ | ⟨herr, htime⟩
    · rw [htime, atPorts_now]
      exact ⟨fun _ => rfl, fun _ hfits => Nat.mod_eq_of_lt hfits, fun h => absurd herr h, Nat.mod_lt _ hpos⟩
    · rw [htime]
      exact ⟨fun h => absurd h herr, fun h => absurd h herr, fun _ => rfl, hpos⟩
  · rw [hres, res_of_receive_of_not_rxEnd (inp := atPorts s.params inp) hend]

end Sys2Proof.Machine
end

section
/-! SUPPORT. A run of admissible events as the bytes it takes, and the frame-level part of `classify` (40_frame_rx.md R104,
R108). -/

namespace Sys2Proof.Machine

/-! ### The bytes of a run inside a frame -/

/-- The bytes taken after a run inside a frame are those taken before it and those of its `RXB` events (R108). -/
theorem rxBytes_foldl_of_insideFrame {is : List Instr} (h : ∀ i ∈ is, insideFrame i = true) (hist : History) :
    (is.foldl historyAfter hist).rxBytes = hist.rxBytes ++ is.filterMap receivedByte := by
  induction is generalizing hist with
  | nil => simp
  | cons i is ih =>
    obtain ⟨hi, his⟩ := List.forall_mem_cons.1 h
    rw [List.foldl_cons, ih his]
    cases i with
    | rxb | nop | txb | txe | txbe => simp [historyAfter, receivedByte, List.filterMap_cons]
    | rst | rxe | rxbe | sensorTh | sensorT | generic => cases hi

/-- A run inside a frame from an idle unit, ended by `RXE`, latches `classify` of the bytes it took (R108). -/
theorem res_of_streamed_frame {s : State} {is : List Instr} (now : Ts) (hcnt : s.rx.cnt = 0) (hacc : s.rx.acc = 0)
    (his : ∀ i ∈ is, insideFrame i = true) :
    ∃ t, runInstrs (is ++ [.rxe now]) s = .next t ∧
      t.res = resultRegs (classify s.params (is.filterMap receivedByte) now) := by
  obtain ⟨t, ht, hres⟩ := res_of_idle_run is now hcnt hacc
  exact ⟨t, ht, by rw [hres, rxBytes_foldl_of_insideFrame his]; rfl⟩

/-- `RXBE` at the end of a run is `RXB` and then `RXE` (R107). -/
theorem runInstrs_append_rxbe (is : List Instr) (b : Byte) (now : Ts) (s : State) :
    runInstrs (is ++ [.rxbe b now]) s = runInstrs (is ++ [.rxb b] ++ [.rxe now]) s := by
  simp [runInstrs_eq_foldl, nextState]

/-! ### `from_bytes` is the frame-level part of `classify` -/

theorem fromBytes_eq_error_iff {raw : List Byte} {now : Ts} {e : ErrorCode} :
    fromBytes raw now = .error e ↔ validate raw = .error e := by
  unfold fromBytes
  cases validate raw <;> simp

theorem fromBytes_eq_ok_iff {raw : List Byte} {now : Ts} {f : Frame} :
    fromBytes raw now = .ok f ↔ validate raw = .ok () ∧ frameOf raw now = f := by
  unfold fromBytes
  cases validate raw <;> simp

/-- An invalid sequence fails in `classify` by the error of `validate` (41_dispatch.md R133). -/
theorem classify_of_validate_error {raw : List Byte} {e : ErrorCode} (h : validate raw = .error e) (p : Config.Params)
    (now : Ts) : classify p raw now = .error e := by
  rw [classify, h]

/-- The message that `classify` answers carries the frame of the sequence (41_dispatch.md R134, 42_sensor_decode.md R153). -/
theorem frame_of_classify_ok {p : Config.Params} {raw : List Byte} {now : Ts} {m : Message}
    (h : classify p raw now = .ok m) : m.frame = frameOf raw now := by
  rcases classify_cases p raw now with ⟨e, -, herr⟩ | ⟨m', hok, -, hframe, -⟩
  · rw [herr] at h; cases h
  · rw [hok] at h; cases h; exact hframe

/-- Settles O15: the run's history holds the bytes of its `RXB` events, `RXBE` is one `RXB` more, and `classify` starts with
the checks of `from_bytes`. -/
theorem streamingEqualsClassify : Obligations.StreamingEqualsClassify := by
  intro s is now hcnt hacc his
  refine ⟨res_of_streamed_frame now hcnt hacc his, fun b => ?_, fun raw e hraw => ?_, fun raw f hraw => ?_⟩
  · have hinside : ∀ i ∈ is ++ [.rxb b], insideFrame i = true :=
      List.forall_mem_append.2 ⟨his, List.forall_mem_singleton.2 rfl⟩
    rw [runInstrs_append_rxbe]
    simpa [receivedByte] using res_of_streamed_frame now hcnt hacc hinside
  · exact classify_of_validate_error (fromBytes_eq_error_iff.1 hraw) s.params now
  · obtain ⟨-, rfl⟩ := fromBytes_eq_ok_iff.1 hraw
    exact ⟨fun _ hg => frame_of_classify_ok hg, fun _ hr => frame_of_classify_ok hr⟩

end Sys2Proof.Machine
end

section
/-! SUPPORT. The checksum as a sum of integers, the four checks in their order, and a sequence too long for any length byte
(40_frame_rx.md R100 to R102, R109). -/

namespace Sys2Proof.Machine

/-! ### The checksum -/

/-- The 8-bit additions, their carries dropped, are the integer sum mod 256 (R100). -/
theorem checksum_toNat (bs : List Byte) : (checksum bs).toNat = (bs.map BitVec.toNat).sum % 256 := by
  induction bs with
  | nil => rfl
  | cons b bs ih => rw [checksum_cons, BitVec.toNat_add, ih, List.map_cons, List.sum_cons, Nat.add_mod_mod]

/-- Settles O17: each law is one of the integer sum. -/
theorem checksumLaws : Obligations.ChecksumLaws := by
  have hiff (a b : List Byte) :
      (a.map BitVec.toNat).sum % 256 = (b.map BitVec.toNat).sum % 256 ↔ checksum a = checksum b := by
    rw [← checksum_toNat, ← checksum_toNat, BitVec.toNat_inj]
  refine ⟨checksum_toNat, fun a b hperm => (hiff a b).1 ?_, fun a b => ?_, hiff⟩
  · rw [(hperm.map BitVec.toNat).sum_nat]
  · simp only [checksum_toNat, List.map_append, List.sum_append, Nat.add_mod_mod, Nat.mod_add_mod]

/-! ### The checks of `validate` -/

/-- Settles O19: with four header bytes there, the checks are about those bytes and the rest. -/
theorem validateChecksInOrder : Obligations.ValidateChecksInOrder := by
  intro b0 b1 b2 b3 payload raw
  refine ⟨fun hshort => by rw [validate, if_pos hshort], ?_⟩
  rintro rfl
  have hlong : ¬ (b0 :: b1 :: b2 :: b3 :: payload).length < 4 := by simp
  rw [validate, if_neg hlong]
  rfl

/-- No length byte fits more than 257 bytes, so the first byte alone decides how they fail (R109). -/
theorem validate_of_overlong {raw : List Byte} (h : 257 < raw.length) :
    validate raw = .error (if raw[0]? = some 0x81#8 then .lengthMismatch else .badStartByte) := by
  obtain ⟨b, rest, rfl⟩ := List.exists_cons_of_length_pos (Nat.zero_lt_of_lt h)
  have hlength : (byteAt (b :: rest) 1).toNat ≠ (b :: rest).length - 2 := by
    have := (byteAt (b :: rest) 1).isLt
    omega
  rw [validate, if_neg (by omega), if_pos hlength]
  by_cases hstart : b = 0x81#8 <;> simp [hstart]

/-- `rx_ovf` tells that the bytes taken exceed the buffer (10_state.md R28). -/
theorem rxOvf_iff_of_rxTracks {raw : List Byte} {s : State} (h : RxTracks raw s) : rxOvf s = true ↔ 257 < raw.length := by
  have hcnt := h.cnt
  simp only [rxOvf, Config.cntSat, beq_iff_eq]
  omega

/-- Settles O16: the count saturates, the byte has no place in the buffer, and no length byte fits. -/
theorem overlongInputFails : Obligations.OverlongInputFails := by
  have hclassify (p : Config.Params) (raw : List Byte) (now : Ts) (hlong : 257 < raw.length) :=
    classify_of_validate_error (validate_of_overlong hlong) p now
  refine ⟨hclassify, fun raw s now hs hlong => ⟨(rxOvf_iff_of_rxTracks hs).2 hlong, _, exec_rxe now s, ?_⟩,
    fun b raw s hs hlong => ⟨_, exec_rxb b s, ?_, rxByte_res b s, ?_⟩⟩
  · rw [rxEnd_res, rxResult_of_rxTracks now hs, hclassify _ raw now hlong]
    rfl
  · have hfull : ¬ s.rx.cnt.toNat < Config.bufBytes := by rw [hs.cnt]; simp only [Config.bufBytes]; omega
    rw [rxByte_buf, if_neg hfull]
  · rw [rxOvf_iff_of_rxTracks (rxTracks_rxByte b hs), List.length_append, List.length_singleton]
    omega

end Sys2Proof.Machine
end

section
/-! SUPPORT. What each receive event selects, writes and leaves: `RXB`, `RXE`, `RXBE` (40_frame_rx.md R105 to R107). -/

namespace Sys2Proof.Machine

/-! ### The words that select the receive events -/

theorem rxb_mem_eventsOf_iff {inp : Input} {b : Byte} : .rxb b ∈ eventsOf inp ↔
    inp.ew &&& 0x13000000#29 = 0x01000000#29 ∧ b = ewRxData inp.ew := by
  simpa using mem_eventsOf_of_isReceive (inp := inp) (i := .rxb b) rfl

theorem rxe_mem_eventsOf_iff {inp : Input} {now : Ts} : .rxe now ∈ eventsOf inp ↔
    inp.ew &&& 0x13000000#29 = 0x02000000#29 ∧ now = inp.now := by
  simpa using mem_eventsOf_of_isReceive (inp := inp) (i := .rxe now) rfl

theorem rxbe_mem_eventsOf_iff {inp : Input} {b : Byte} {now : Ts} : .rxbe b now ∈ eventsOf inp ↔
    inp.ew &&& 0x13000000#29 = 0x03000000#29 ∧ b = ewRxData inp.ew ∧ now = inp.now := by
  simpa using mem_eventsOf_of_isReceive (inp := inp) (i := .rxbe b now) rfl

/-! ### The buffers after a byte and after an end -/

/-- A byte that fits RXBUF is stored at the count (R105). -/
theorem memRead_rxByte_same (b : Byte) {s : State} (h : s.rx.cnt.toNat < 257) :
    memRead .rxbuf s.rx.cnt.toNat (rxByte b s) = some b := by
  have hroom : s.rx.cnt.toNat < Config.bufBytes := h
  simp [memRead, bufferOf, hroom]

/-- Every other byte of RXBUF stays, and all of them where the byte does not fit (R105). -/
theorem memRead_rxByte_other (b : Byte) {s : State} {a : Nat} (h : a ≠ s.rx.cnt.toNat ∨ 257 ≤ s.rx.cnt.toNat) :
    memRead .rxbuf a (rxByte b s) = memRead .rxbuf a s := by
  simp only [memRead, bufferOf, rxByte_buf, Config.bufBytes]
  split
  · exact Mem.read_write_other _ _ _ _ (by omega)
  · rfl

/-- Taking a byte leaves TXBUF (20_memory.md R60). -/
@[simp] theorem memRead_txbuf_rxByte (b : Byte) (a : Nat) (s : State) :
    memRead .txbuf a (rxByte b s) = memRead .txbuf a s := by
  simp [memRead, bufferOf]

/-- Ending a frame writes neither buffer (R106). -/
@[simp] theorem memRead_rxEnd (sp : Space) (now : Ts) (a : Nat) (s : State) :
    memRead sp a (rxEnd now s) = memRead sp a s := by
  cases sp <;> rfl

/-! ### `RXB` -/

/-- A closed payload window shows no byte (R111, log entry 14). -/
theorem plData_of_closed {s : State} (h : payloadOpen s = false) (idx : Byte) :
    plData idx s = .error .payloadWindowClosed := by
  simp [plData, h]

/-- The count goes up by one and saturates (R105). -/
theorem rxByte_cnt_toNat (b : Byte) (s : State) : (rxByte b s).rx.cnt.toNat = min (s.rx.cnt.toNat + 1) 258 := by
  simp [Config.cntSat]

/-- Settles O11: each register and buffer after the byte by its own law; the flags follow the count. -/
theorem rxbTakesOneByte : Obligations.RxbTakesOneByte := by
  refine ⟨fun inp b => rxb_mem_eventsOf_iff, fun b s => ⟨_, exec_rxb b s, rxByte_cnt_toNat b s, rxByte_acc b s,
    memRead_rxByte_same b, fun a => memRead_rxByte_other b, fun a => memRead_txbuf_rxByte b a s, rxByte_res b s,
    rxByte_tx b s, rxByte_txh b s, rxByte_params b s, rxByte_script b s, rxByte_envIdx b s, ?busy, ?ovf,
    plData_of_closed (payloadOpen_rxByte b s)⟩⟩
  case busy =>
    have hcnt : (rxByte b s).rx.cnt ≠ 0 := fun hzero => by
      have hnat := rxByte_cnt_toNat b s
      simp only [hzero, BitVec.ofNat_eq_ofNat, BitVec.toNat_ofNat, Nat.zero_mod] at hnat
      omega
    exact bne_iff_ne.2 hcnt
  case ovf =>
    simp only [rxOvf, rxByte_cnt_toNat, Config.cntSat, beq_iff_eq]
    omega

/-! ### `RXE` and `RXBE` -/

/-- Whatever the state, a frame end fails only by an error that can be latched (30_encoding.md R88). -/
theorem rxResult_error {now : Ts} {s : State} {e : ErrorCode} (h : rxResult now s = .error e) : e ∈ latchedErrors := by
  unfold rxResult at h
  split at h
  · cases h; decide
  split at h
  · cases h; decide
  split at h
  · cases h; decide
  split at h
  · cases h; decide
  rcases classifyValid_cases s.params (heldFrame s) now with hvalid | hvalid | ⟨r, hvalid, -⟩
  · rw [hvalid] at h; cases h
  · rw [hvalid] at h; cases h; decide
  · rw [hvalid] at h; cases h

/-- The codes that a frame end can latch (R88, 60_exceptions.md R201). -/
theorem resErr_rxEnd (now : Ts) (s : State) :
    (rxEnd now s).res.resErr = 0 ∨ (rxEnd now s).res.resErr = 1 ∨ (rxEnd now s).res.resErr = 2 ∨
    (rxEnd now s).res.resErr = 3 ∨ (rxEnd now s).res.resErr = 4 ∨ (rxEnd now s).res.resErr = 6 := by
  rw [rxEnd_res]
  cases hres : rxResult now s with
  | ok m => exact .inl (resultRegs_ok_resErr m)
  | error e => exact (resultLegal_errorRegs (rxResult_error hres)).errLegal

/-- Settles O12: the image of the first failing check is an error's, whose code can be latched. -/
theorem rxeChecksInOrder : Obligations.RxeChecksInOrder := by
  refine ⟨fun inp now => ⟨rxe_mem_eventsOf_iff, fun hmem => (resStrobe_iff inp).2 ⟨_, hmem, rfl⟩⟩, fun now s =>
    ⟨_, exec_rxe now s, resErr_rxEnd now s, ?_, rfl, rfl, rfl, fun a => memRead_rxEnd _ now a s,
      fun a => memRead_rxEnd _ now a s, rfl, rfl, rfl, rfl, rfl⟩⟩
  simp only [rxEnd_res, rxResult, apply_ite resultRegs]
  rfl

/-- Settles O13: the state is that of `RXE` after `RXB`, and the end writes no buffer. -/
theorem rxbeIsByteThenEnd : Obligations.RxbeIsByteThenEnd := by
  refine ⟨fun inp b now => rxbe_mem_eventsOf_iff, fun b now s => ⟨_, exec_rxbe b now s,
    by rw [runInstrs_pair_next (exec_rxb b s), exec_rxe], rfl, rfl, fun hroom => ?_, fun a ha => ?_, fun a => ?_,
    rxByte_tx b s, rxByte_txh b s, rxByte_params b s, rxByte_script b s, rxByte_envIdx b s⟩⟩
  · rw [memRead_rxEnd, memRead_rxByte_same b hroom]
  · rw [memRead_rxEnd, memRead_rxByte_other b ha]
  · rw [memRead_rxEnd, memRead_txbuf_rxByte]

end Sys2Proof.Machine
end

section
/-! SUPPORT. The payload window after a frame end (40_frame_rx.md R111, 70_reset_and_hazards.md R236). -/

namespace Sys2Proof.Machine

/-- `NOP` and transmit events leave the receive half (20_memory.md R60). -/
theorem RxReflects.run_transmit {raw : List Byte} {last : Option (List Byte × Ts)} {is : List Instr} {s : State}
    (h : RxReflects raw last s) (his : ∀ i ∈ is, isTransmit i = true ∨ i = .nop) :
    RxReflects raw last (is.foldl (fun t i => nextState i t) s) := by
  induction is generalizing s with
  | nil => exact h
  | cons i is ih =>
    obtain ⟨hi | rfl, hrest⟩ := List.forall_mem_cons.1 his
    · exact ih (h.of_isTransmit hi) hrest
    · exact ih h hrest

section
variable {raw : List Byte} {now : Ts} {s : State} (h : RxReflects [] (some (raw, now)) s)
include h

/-- After a frame end the window is open exactly where it gave no error (R111). -/
theorem RxReflects.payloadOpen_iff : payloadOpen s = true ↔ s.res.resErr = 0 := by
  have hvalid : s.res.resValid = true := by rw [h.res]; exact resultRegs_resValid _
  have hcnt : s.rx.cnt = 0 := BitVec.eq_of_toNat_eq h.tracks.cnt
  simp [payloadOpen, hvalid, hcnt]

/-- A frame end without error was that of a frame of at most 257 bytes, `res_paylen` of them after the header (10_state.md
R25). -/
theorem RxReflects.length_of_noError (hnone : s.res.resErr = 0) :
    s.res.resPaylen.toNat + 4 = raw.length ∧ raw.length ≤ 257 := by
  have hres : s.res = resultRegs (classify s.params raw now) := h.res
  rcases classify_cases s.params raw now with ⟨e, -, herr⟩ | ⟨m, hok, hvalid, hframe, -⟩
  · rw [hres, herr] at hnone
    exact absurd hnone e.code_ne_zero
  · obtain ⟨hmin, hmax, -⟩ := length_and_checksum_of_validate hvalid
    rw [hres, hok, resultRegs_ok_resPaylen, hframe]
    simp [frameOf]
    omega

/-- In the open window the port shows the payload byte (R111). -/
theorem RxReflects.plData_eq (hnone : s.res.resErr = 0) {idx : Byte} (hidx : idx.toNat < s.res.resPaylen.toNat) :
    ∃ b, raw[4 + idx.toNat]? = some b ∧ plData idx s = .ok b := by
  obtain ⟨hlen, hmax⟩ := h.length_of_noError hnone
  have hin : 4 + idx.toNat < raw.length := by omega
  have hread : memRead .rxbuf (4 + idx.toNat) s = some raw[4 + idx.toNat] := by
    rw [← List.getElem?_eq_getElem hin]
    exact h.held rfl _ rfl _ (by omega) hin
  exact ⟨_, List.getElem?_eq_getElem hin, by simp [plData, h.payloadOpen_iff.2 hnone, hidx, hread]⟩

end

/-- Settles O45: the run leaves the frame just ended in place, and the window follows its result. -/
theorem payloadReadout : Obligations.PayloadReadout := by
  intro raw s now is hs his
  have h : RxReflects [] (some (raw, now)) (is.foldl (fun t i => nextState i t) (rxEnd now s)) :=
    (hs.rxReflects_rxEnd now).run_transmit his
  refine ⟨_, by rw [runInstrs_cons_next (exec_rxe now s), runInstrs_eq_foldl], fun hnone => ⟨?_, ?_, ?_⟩, fun herr => ?_,
    fun b => ⟨_, exec_rxb b _, plData_of_closed (payloadOpen_rxByte b _)⟩,
    ⟨_, exec_rst _, rfl, rfl, plData_of_closed rfl⟩⟩
  · obtain ⟨hlen, -⟩ := h.length_of_noError hnone
    exact hlen
  · exact fun idx => h.plData_eq hnone
  · intro idx hidx
    simp [plData, Nat.not_lt.2 hidx]
  · exact plData_of_closed (Bool.eq_false_iff.2 fun hopen => herr (h.payloadOpen_iff.1 hopen))

end Sys2Proof.Machine
end

section
/-! SUPPORT. The dispatcher over any registry, what the registry claims, and the generic frame as an instruction
(41_dispatch.md R130 to R135). -/

namespace Sys2Proof.Machine

/-! ### The loop over a registry -/

/-- Entries that refuse a sequence are passed over (41_dispatch.md R130, R131). -/
theorem classifyValidWith_append_of_refused {before : List Entry} {raw : List Byte}
    (h : ∀ x ∈ before, x.accepts raw = false) (rest : List Entry) (now : Ts) :
    classifyValidWith (before ++ rest) raw now = classifyValidWith rest raw now := by
  induction before with
  | nil => rfl
  | cons x before ih =>
    obtain ⟨hx, hbefore⟩ := List.forall_mem_cons.1 h
    simp [classifyValidWith, hx, ih hbefore]

/-- Settles O24: the loop passes over the entries that refuse, and what is left starts with the accepting entry or is
empty. -/
theorem firstAcceptingEntryWins : Obligations.FirstAcceptingEntryWins := by
  refine ⟨fun before after e raw now hrefused haccepts => ?_, fun registry raw now hrefused => ?_⟩
  · rw [classifyValidWith_append_of_refused hrefused, classifyValidWith, if_pos haccepts]
  · rw [← List.append_nil registry, classifyValidWith_append_of_refused hrefused, classifyValidWith]

/-! ### What the registry claims -/

/-- A byte inside the sequence is its entry there. -/
theorem getElem?_eq_some_byteAt {raw : List Byte} {i : Nat} (h : i < raw.length) : raw[i]? = some (byteAt raw i) := by
  rw [byteAt_of_getElem? (List.getElem?_eq_getElem h), List.getElem?_eq_getElem h]

/-- The constants of 16 bytes match where each position has its value (42_sensor_decode.md R150, R151). -/
theorem constantsMatch_iff {p : Config.Params} {raw : List Byte} (hlen : raw.length = 16) :
    constantsMatch p raw = true ↔ ∀ i : Fin 16, byteAt raw i &&& p.sensorMask[i] = p.sensorMatch[i] := by
  have hbyte (i : Nat) (hi : i < raw.length) : raw[i] = byteAt raw i :=
    (byteAt_of_getElem? (List.getElem?_eq_getElem hi)).symm
  rw [constantsMatch, List.all_eq_true, List.forall_mem_iff_getElem]
  simp [hlen, hbyte, Fin.forall_iff]

/-- The three tests of the sensor predicate (R150). -/
theorem acceptsSensor_iff {p : Config.Params} {raw : List Byte} : acceptsSensor p raw = true ↔
    raw.length = 16 ∧ (∀ i : Fin 16, byteAt raw i &&& p.sensorMask[i] = p.sensorMatch[i]) ∧ (subOf raw).toNat ≤ 1 := by
  simp only [acceptsSensor, Config.sensorLen, Bool.and_eq_true, beq_iff_eq, decide_eq_true_eq, and_assoc]
  exact and_congr_right fun hlen => and_congr_left' (constantsMatch_iff hlen)

/-- A claimed sequence passed the three tests of the sensor predicate (41_dispatch.md R131, 42_sensor_decode.md R150). -/
theorem checks_of_claimed {p : Config.Params} {raw : List Byte} (h : claimed p raw = true) :
    raw.length = 16 ∧ (∀ i : Fin 16, byteAt raw i &&& p.sensorMask[i] = p.sensorMatch[i]) ∧ (subOf raw).toNat ≤ 1 :=
  acceptsSensor_iff.1 ((claimed_iff p raw).1 h).2

/-- A valid frame is classified by the registry (41_dispatch.md R130, R133). -/
theorem classify_of_validate {raw : List Byte} (h : validate raw = .ok ()) (p : Config.Params) (now : Ts) :
    classify p raw now = classifyValid p raw now := by
  rw [classify, h]

/-- Settles O23: the claiming entry is the sensor pair, whose predicate leaves its constructor no error but a digit's. -/
theorem claimedFramesAreDecoded : Obligations.ClaimedFramesAreDecoded := by
  intro p raw now hvalid hclaimed
  obtain ⟨-, -, hsub⟩ := checks_of_claimed hclaimed
  have hdecoded : classify p raw now = decodeSensor p raw now := by
    rw [classify_of_validate hvalid, classifyValid_of_claimed hclaimed]
  rw [hdecoded]
  exact ⟨rfl, (decodeSensor_cases p now hsub).imp_right fun ⟨r, hr, _⟩ => ⟨r, hr⟩⟩

/-- Settles O21: without a claim the loop ends at the generic frame, and a claim implies each of the predicate's tests. -/
theorem unclaimedFramesAreGeneric : Obligations.UnclaimedFramesAreGeneric := by
  refine ⟨fun p raw now hvalid hnot => ?_, fun p raw hlen => ?_, fun p raw hsub => ?_, fun p raw i hconst => ?_⟩
  · obtain ⟨hlen, -⟩ := length_and_checksum_of_validate hvalid
    have hgeneric : classify p raw now = .ok (.generic (frameOf raw now)) := by
      rw [classify_of_validate hvalid, classifyValid_of_not_claimed hnot]
    rw [hgeneric]
    exact ⟨_, rfl, getElem?_eq_some_byteAt (by omega), getElem?_eq_some_byteAt (by omega), rfl, rfl, rfl, rfl⟩
  all_goals
    refine Bool.eq_false_iff.2 fun hclaimed => ?_
    obtain ⟨hlen16, hconst16, hsub1⟩ := checks_of_claimed hclaimed
  · exact hlen hlen16
  · omega
  · exact hconst (hconst16 i)

/-! ### `GENERIC` -/

/-- The wire bytes of a payload that no length byte describes fail the length check (40_frame_rx.md R102). -/
theorem validate_wireBytes_of_gt (t : Byte) {payload : List Byte} (h : 253 < payload.length) :
    validate (wireBytes t payload) = .error .lengthMismatch := by
  have hlen : 257 < (wireBytes t payload).length := by
    rw [wireBytes_length]
    omega
  exact validate_of_overlong hlen

/-- The generic constructor's answer on wire bytes: the frame, or `LengthMismatch` (41_dispatch.md R130, R134). -/
theorem genericResult_wireBytes (t : Byte) (payload : List Byte) (now : Ts) :
    genericResult (wireBytes t payload) now =
      if payload.length ≤ 253 then .ok (.generic (frameOf (wireBytes t payload) now)) else .error .lengthMismatch := by
  split
  · next h => rw [genericResult, fromBytes, validate_wireBytes t h]
  · next h => rw [genericResult, fromBytes, validate_wireBytes_of_gt t (Nat.lt_of_not_le h)]

/-- What RXBUF shows after a whole frame: the frame's bytes that fit, and elsewhere what it held (20_memory.md R51). -/
theorem memRead_rxbuf_receiveFrame (raw : List Byte) (r : Result Message) (s : State) (a : Nat) :
    memRead .rxbuf a (receiveFrame raw r s) = if a < raw.length ∧ a < 257 then raw[a]? else memRead .rxbuf a s := by
  obtain ⟨-, -, -, -, -, -, -, -, hread⟩ := receiveFrame_effect raw r s
  exact hread a

/-- Receiving a frame leaves TXBUF (20_memory.md R60). -/
@[simp] theorem memRead_txbuf_receiveFrame (raw : List Byte) (r : Result Message) (s : State) (a : Nat) :
    memRead .txbuf a (receiveFrame raw r s) = memRead .txbuf a s := by
  simp [memRead, bufferOf]

/-- Settles O28: the constructor's answer is latched, and receiving the frame writes RXBUF and the counters besides. -/
theorem genericFrameReading : Obligations.GenericFrameReading := by
  intro typ payload now s
  refine ⟨_, exec_generic typ payload now s, fun hfits => ?_, fun hlong => ?_, rfl, rfl, fun a => ?_,
    memRead_txbuf_receiveFrame _ _ s, receiveFrame_tx _ _ s, receiveFrame_txh _ _ s, receiveFrame_params _ _ s,
    receiveFrame_script _ _ s, receiveFrame_envIdx _ _ s⟩
  · rw [receiveFrame_res, genericResult_wireBytes, if_pos hfits]
    have hpaylen : (BitVec.ofNat 8 payload.length).toNat = payload.length := by
      rw [BitVec.toNat_ofNat]
      omega
    exact ⟨rfl, rfl, rfl, rfl, rfl, hpaylen, rfl, rfl, rfl, rfl, rfl, rfl, rfl, rfl, rfl, rfl, rfl⟩
  · rw [receiveFrame_res, genericResult_wireBytes, if_neg (Nat.not_le.2 hlong)]
    rfl
  · rw [memRead_rxbuf_receiveFrame, wireBytes_length]

end Sys2Proof.Machine
end

section
/-! SUPPORT. The sensor predicate by its three tests, and the sub-type that it keeps from the constructor
(42_sensor_decode.md R150 to R152, R164). -/

namespace Sys2Proof.Machine

/-! ### The predicate -/

/-- The low nibble is what the mask `0x0f` leaves (30_encoding.md R74). -/
theorem loNibble_toNat (b : Byte) : (loNibble b).toNat = (b &&& 0x0f#8).toNat := by
  rw [loNibble, BitVec.extractLsb'_toNat, BitVec.toNat_and, Nat.shiftRight_zero]
  exact (Nat.and_two_pow_sub_one_eq_mod b.toNat 4).symm

/-- Settles O22: the three tests of the predicate, the sub-type nibble as a masked byte. -/
theorem sensorPredicateChecks : Obligations.SensorPredicateChecks := by
  refine ⟨fun p raw => ?_, by decide, by decide, by decide⟩
  rw [acceptsSensor_iff, subOf, loNibble_toNat]

/-- The constant positions of the default parameters (R151, 92_eei_decisions.md D12). -/
theorem defaultConstants_iff (raw : List Byte) :
    (∀ i : Fin 16, byteAt raw i &&& Config.defaultParams.sensorMask[i] = Config.defaultParams.sensorMatch[i]) ↔
      byteAt raw 0 = 0x81#8 ∧ byteAt raw 1 = 0x0e#8 ∧ byteAt raw 2 = 0x04#8 ∧ byteAt raw 4 = 0x05#8 ∧
      byteAt raw 5 &&& 0xf0#8 = 0x10#8 ∧ byteAt raw 6 = 0xa0#8 ∧ byteAt raw 7 = 0x01#8 := by
  have hall (b : Byte) : b &&& 0xff#8 = b := BitVec.and_allOnes
  simp [Fin.forall_fin_succ, Config.defaultParams, hall]

/-- Byte 5 with its default constant bits and a legal sub-type (R151, R152). -/
theorem byte5_iff (b : Byte) :
    b &&& 0xf0#8 = 0x10#8 ∧ (loNibble b).toNat ≤ 1 ↔ b = 0x10#8 ∨ b = 0x11#8 := by
  revert b; decide

/-- A sequence is its bytes in order (00_scope.md R7). -/
theorem map_byteAt_range (raw : List Byte) : (List.range raw.length).map (byteAt raw) = raw :=
  List.ext_getElem (by simp) fun i _ hi => by simp [byteAt_of_getElem? (List.getElem?_eq_getElem hi)]

/-- Settles O25: seven bytes are constant, the high nibble of byte 5 is, and its low nibble is the sub-type. -/
theorem defaultSensorPredicate : Obligations.DefaultSensorPredicate := by
  intro raw
  rw [acceptsSensor_iff, defaultConstants_iff]
  constructor
  · rintro ⟨hlen, ⟨h0, h1, h2, h4, h5, h6, h7⟩, hsub⟩
    refine ⟨byteAt raw 3, byteAt raw 5, byteAt raw 8, byteAt raw 9, byteAt raw 10, byteAt raw 11, byteAt raw 12,
      byteAt raw 13, byteAt raw 14, byteAt raw 15, (byte5_iff _).1 ⟨h5, hsub⟩, ?_⟩
    have hbytes := map_byteAt_range raw
    rw [hlen] at hbytes
    rw [← h0, ← h1, ← h2, ← h4, ← h6, ← h7]
    exact hbytes.symm
  · rintro ⟨chk, b5, b8, b9, b10, b11, b12, b13, b14, b15, hb5, rfl⟩
    obtain ⟨h5, hsub⟩ := (byte5_iff b5).2 hb5
    exact ⟨rfl, ⟨rfl, rfl, rfl, rfl, h5, rfl, rfl⟩, hsub⟩

/-! ### The error that the block cannot reach -/

/-- Settles O31: the predicate leaves such a frame to the generic fallback, and no frame end latches any error but those
of R88. -/
theorem unsupportedSubtypeUnreachable : Obligations.UnsupportedSubtypeUnreachable := by
  obtain ⟨-, -, hunclaimed, -⟩ := unclaimedFramesAreGeneric
  have hcode (now : Ts) (s : State) : (rxEnd now s).res.resErr ≠ 5 := by
    rcases resErr_rxEnd now s with h | h | h | h | h | h <;> rw [h] <;> decide
  refine ⟨fun p raw now hsub => ⟨?direct, fun hvalid => ?generic⟩, fun p raw now herr => ?classify,
    fun b now s i hi => ?latch⟩
  case direct => rw [decodeSensor, if_pos hsub]
  case generic => rw [classify_of_validate hvalid, classifyValid_of_not_claimed (hunclaimed p raw hsub)]
  case classify =>
    rcases classify_cases p raw now with ⟨e, hmem, h⟩ | ⟨m, h, -⟩
    · rw [h] at herr
      cases herr
      revert hmem
      decide
    · rw [h] at herr
      cases herr
  case latch =>
    rcases List.mem_pair.1 hi with rfl | rfl
    · exact ⟨_, exec_rxe now s, hcode now s⟩
    · exact ⟨_, exec_rxbe b now s, hcode now (rxByte b s)⟩

end Sys2Proof.Machine
end

section
/-! SUPPORT. The reading that the constructor makes of a frame's fields, its temperature register, and the frame classes
`SENSOR_TH` and `SENSOR_T` (42_sensor_decode.md R153 to R162, R170). -/

namespace Sys2Proof.Machine

/-! ### The temperature -/

/-- A reading's temperature is the signed value of its own three decimal digits, those of bytes 13 and 14 (R157 to R159). -/
theorem temperature_of_decodeSensor_ok {p : Config.Params} {raw : List Byte} {now : Ts} {r : SensorReading}
    (h : decodeSensor p raw now = .ok (.sensor r)) :
    r.tdig = tempDigits raw ∧ decimal r.tdig = true ∧ r.temp = tempValue r.neg (digitsValue r.tdig) := by
  dsimp only [decodeSensor] at h
  split at h
  · cases h
  split at h
  · cases h
  split at h
  · cases h
  next hdecimal _ =>
    cases h
    exact ⟨rfl, by simpa using hdecimal, rfl⟩

theorem tempValue_eq_sign_mul (neg : Bool) (mag : Nat) :
    tempValue neg mag = (if neg then -1 else 1) * (mag : Int) := by
  cases neg <;> simp [tempValue]

/-- Settles O29: three decimal digits are at most 999, and up to there the register is exact. -/
theorem temperatureRegisterExact : Obligations.TemperatureRegisterExact := by
  refine ⟨fun p raw now r h => ?_, fun raw => rfl, fun neg d hd => ?_, by decide, by decide, by decide, by decide⟩
  · obtain ⟨htdig, hdecimal, htemp⟩ := temperature_of_decodeSensor_ok h
    exact ⟨htdig ▸ htemp, htemp ▸ tempRegister_toInt r.neg (digitsValue_le_of_decimal hdecimal)⟩
  · have hle := digitsValue_le_of_decimal hd
    exact ⟨hle, tempValue_eq_sign_mul neg _, tempRegister_toInt neg hle⟩

/-- Settles O30: the magnitude is 0, and 0 negated is 0 in both forms. -/
theorem negativeZeroIsZero : Obligations.NegativeZeroIsZero := by
  intro p raw now r h hneg htdig
  obtain ⟨-, -, htemp⟩ := temperature_of_decodeSensor_ok h
  simp only [sensorRegs, htemp, hneg, htdig]
  decide

/-! ### The reading of a frame's fields -/

/-- The temperature digits `[n3, n0, n1]` among the fields of a frame (R157). -/
def fieldTempDigits (f : SensorFrame) : Digits := { d2 := f.n3, d1 := f.n0, d0 := f.n1 }

/-- The humidity digits `[n4, n5, n2]` among the fields of a frame (R157). -/
def fieldHumDigits (f : SensorFrame) : Digits := { d2 := f.n4, d1 := f.n5, d0 := f.n2 }

/-- The reading with the fields `f` of a class, its digits decimal, and the frame it came in (R153). -/
def readingOf (noHumidity : Bool) (f : SensorFrame) (frame : Frame) : SensorReading where
  frame := frame
  addr := f.addr
  sub := noHumidity
  neg := f.neg
  battNew := f.battNew
  battLow := f.battLow
  tdig := fieldTempDigits f
  temp := tempValue f.neg (digitsValue (fieldTempDigits f))
  hum := if !noHumidity then some { value := digitsValue (fieldHumDigits f), digits := fieldHumDigits f } else none

/-- Every digit that the constructor checks is decimal: those of the humidity where it is present or the parameter asks for
it (R158). -/
def digitsLegal (p : Config.Params) (noHumidity : Bool) (f : SensorFrame) : Bool :=
  decimal (fieldTempDigits f) && (!(!noHumidity || p.humCheckWhenAbsent) || decimal (fieldHumDigits f))

theorem decimal_iff {d : Digits} : decimal d = true ↔ d.d2.toNat ≤ 9 ∧ d.d1.toNat ≤ 9 ∧ d.d0.toNat ≤ 9 := by
  simp [decimal, and_assoc]

theorem decimal_fieldTempDigits_iff {f : SensorFrame} :
    decimal (fieldTempDigits f) = true ↔ f.n0.toNat ≤ 9 ∧ f.n1.toNat ≤ 9 ∧ f.n3.toNat ≤ 9 := by
  simp only [decimal_iff, fieldTempDigits]
  omega

theorem decimal_fieldHumDigits_iff {f : SensorFrame} :
    decimal (fieldHumDigits f) = true ↔ f.n2.toNat ≤ 9 ∧ f.n4.toNat ≤ 9 ∧ f.n5.toNat ≤ 9 := by
  simp only [decimal_iff, fieldHumDigits]
  omega

/-- With humidity all six nibbles are checked (R158). -/
theorem digitsLegal_false_iff {p : Config.Params} {f : SensorFrame} : digitsLegal p false f = true ↔
    f.n0.toNat ≤ 9 ∧ f.n1.toNat ≤ 9 ∧ f.n2.toNat ≤ 9 ∧ f.n3.toNat ≤ 9 ∧ f.n4.toNat ≤ 9 ∧ f.n5.toNat ≤ 9 := by
  have hall : digitsLegal p false f = (decimal (fieldTempDigits f) && decimal (fieldHumDigits f)) := rfl
  rw [hall, Bool.and_eq_true, decimal_fieldTempDigits_iff, decimal_fieldHumDigits_iff]
  omega

/-- Without humidity its nibbles are checked where the parameter says so (R158). -/
theorem digitsLegal_true_iff {p : Config.Params} {f : SensorFrame} : digitsLegal p true f = true ↔
    (f.n0.toNat ≤ 9 ∧ f.n1.toNat ≤ 9 ∧ f.n3.toNat ≤ 9) ∧
      (p.humCheckWhenAbsent = true → f.n2.toNat ≤ 9 ∧ f.n4.toNat ≤ 9 ∧ f.n5.toNat ≤ 9) := by
  cases hcheck : p.humCheckWhenAbsent <;>
    simp [digitsLegal, hcheck, decimal_fieldTempDigits_iff, decimal_fieldHumDigits_iff]

/-- Of a frame with the low nibble of a class, the constructor answers the reading with the fields of the frame, or
`InvalidDigit` (R153). -/
theorem decodeSensor_eq {raw : List Byte} {sub : Bool} (hsub : subOf raw = subNibble sub) (p : Config.Params) (now : Ts) :
    decodeSensor p raw now = if digitsLegal p sub (sensorFields raw)
      then .ok (.sensor (readingOf sub (sensorFields raw) (frameOf raw now))) else .error .invalidDigit := by
  have htemp : fieldTempDigits (sensorFields raw) = tempDigits raw := rfl
  have hhum : fieldHumDigits (sensorFields raw) = humDigits raw := rfl
  have hle : ¬ (subNibble sub).toNat > 1 := by cases sub <;> decide
  simp only [decodeSensor, hsub, hle, if_false, subNibble_bit, digitsLegal, htemp, hhum]
  cases decimal (tempDigits raw)
  · rfl
  · cases (!sub || p.humCheckWhenAbsent)
    · rfl
    · cases decimal (humDigits raw) <;> rfl

/-- The constructor's answer on the frame of a class with the fields `f` (R153). -/
theorem decodeSensor_sensorBytes (p : Config.Params) (sub : Bool) (f : SensorFrame) (now : Ts) :
    decodeSensor p (sensorBytes sub f) now = if digitsLegal p sub f
      then .ok (.sensor (readingOf sub f (frameOf (sensorBytes sub f) now))) else .error .invalidDigit := by
  rw [decodeSensor_eq (subOf_sensorBytes sub f), sensorFields_sensorBytes]

/-! ### `SENSOR_TH` and `SENSOR_T` -/

/-- The temperature register of legal digits is their value with its sign (R159). -/
theorem sTemp_readingOf {p : Config.Params} {sub : Bool} {f : SensorFrame} (h : digitsLegal p sub f = true)
    (frame : Frame) : (sensorRegs (readingOf sub f frame)).sTemp.toInt =
      (if f.neg then -1 else 1) * ((100 * f.n3.toNat + 10 * f.n0.toNat + f.n1.toNat : Nat) : Int) := by
  have hle := digitsValue_le_of_decimal (Bool.and_eq_true_iff.1 h).1
  exact (tempRegister_toInt f.neg hle).trans (tempValue_eq_sign_mul f.neg _)

/-- The humidity register of legal digits is their value (R161). -/
theorem sHum_readingOf {p : Config.Params} {f : SensorFrame} (h : digitsLegal p false f = true) (frame : Frame) :
    (sensorRegs (readingOf false f frame)).sHum.toNat = 100 * f.n4.toNat + 10 * f.n5.toNat + f.n2.toNat := by
  have hle : digitsValue (fieldHumDigits f) ≤ 999 := digitsValue_le_of_decimal (Bool.and_eq_true_iff.1 h).2
  have hlt : digitsValue (fieldHumDigits f) < 2 ^ 16 := by omega
  exact (BitVec.toNat_ofNat _ _).trans (Nat.mod_eq_of_lt hlt)

/-- Besides the result, receiving a sensor frame clears the counters and stores the 16 bytes (20_memory.md R51,
40_frame_rx.md R106). -/
theorem receiveFrame_sensorBytes_frame (sub : Bool) (f : SensorFrame) (r : Result Message) (s : State) :
    let t := receiveFrame (sensorBytes sub f) r s
    t.rx.cnt = 0 ∧ t.rx.acc = 0 ∧
    (∀ a, memRead .rxbuf a t = if a < 16 then (sensorBytes sub f)[a]? else memRead .rxbuf a s) ∧
    (∀ a, memRead .txbuf a t = memRead .txbuf a s) ∧
    t.tx = s.tx ∧ t.txh = s.txh ∧ t.params = s.params ∧ t.script = s.script ∧ t.envIdx = s.envIdx := by
  refine ⟨rfl, rfl, fun a => ?_, memRead_txbuf_receiveFrame _ _ s, receiveFrame_tx _ _ s, receiveFrame_txh _ _ s,
    receiveFrame_params _ _ s, receiveFrame_script _ _ s, receiveFrame_envIdx _ _ s⟩
  have hin : a < 16 ∧ a < 257 ↔ a < 16 := by omega
  simp only [memRead_rxbuf_receiveFrame, sensorBytes_length, hin]

/-- Settles O26: the constructor's answer by the digits of the fields is latched, and the frame is received whole. -/
theorem sensorThReading : Obligations.SensorThReading := by
  intro f now s
  refine ⟨_, exec_sensorTh f now s, fun hdigits => ?_, fun hdigits => ?_, receiveFrame_sensorBytes_frame false f _ s⟩
  · have hlegal : digitsLegal s.params false f = true := digitsLegal_false_iff.2 hdigits
    rw [receiveFrame_res, decodeSensor_sensorBytes, if_pos hlegal]
    exact ⟨rfl, rfl, rfl, rfl, rfl, rfl, rfl, rfl, rfl, rfl, rfl, rfl, rfl, sTemp_readingOf hlegal _, rfl, rfl,
      sHum_readingOf hlegal _⟩
  · rw [receiveFrame_res, decodeSensor_sensorBytes, if_neg (mt digitsLegal_false_iff.1 hdigits)]
    rfl

/-- Settles O27: as for `SENSOR_TH`, the humidity absent. -/
theorem sensorTReading : Obligations.SensorTReading := by
  intro f now s
  refine ⟨_, exec_sensorT f now s, fun hdigits => ?_, fun hdigits => ?_, receiveFrame_sensorBytes_frame true f _ s⟩
  · have hlegal : digitsLegal s.params true f = true := digitsLegal_true_iff.2 hdigits
    rw [receiveFrame_res, decodeSensor_sensorBytes, if_pos hlegal]
    exact ⟨rfl, rfl, rfl, rfl, rfl, rfl, rfl, rfl, rfl, rfl, rfl, rfl, rfl, sTemp_readingOf hlegal _, rfl, rfl, rfl⟩
  · rw [receiveFrame_res, decodeSensor_sensorBytes, if_neg (mt digitsLegal_true_iff.1 hdigits)]
    rfl

end Sys2Proof.Machine
end

section
/-! SUPPORT. The address in hexadecimal digits (42_sensor_decode.md R166). -/

namespace Sys2Proof.Machine

/-- The lower-case hexadecimal digits in order (R166). -/
def hexDigits : List Char := ['0', '1', '2', '3', '4', '5', '6', '7', '8', '9', 'a', 'b', 'c', 'd', 'e', 'f']

theorem hexDigits_getElem? (n : Nibble) : hexDigits[n.toNat]? = some (hexDigit n) := by
  revert n; decide

theorem hexDigit_injective : Function.Injective hexDigit := by
  unfold Function.Injective; decide

/-- Digit `k` of the id is that of address bits `15-4k` to `12-4k` (R166). -/
theorem deviceIdDigits_getElem? (a : BitVec 16) {k : Nat} (hk : k < 4) :
    (deviceIdDigits a)[k]? = some (hexDigit (a.extractLsb' (4 * (3 - k)) 4)) := by
  interval_cases k <;> rfl

/-- Four bits of the address as a digit to the base 16. -/
theorem extractNibble_toNat (a : BitVec 16) (j : Nat) : (a.extractLsb' (4 * j) 4).toNat = a.toNat / 16 ^ j % 16 := by
  rw [BitVec.extractLsb'_toNat, Nat.shiftRight_eq_div_pow, Nat.pow_mul]

/-- An address is its four nibbles. -/
theorem append_nibbles_of_word (a : BitVec 16) :
    a.extractLsb' 12 4 ++ a.extractLsb' 8 4 ++ a.extractLsb' 4 4 ++ a.extractLsb' 0 4 = a := by
  rw [BitVec.extractLsb'_append_extractLsb'_eq_extractLsb' (by rfl),
    BitVec.extractLsb'_append_extractLsb'_eq_extractLsb' (by rfl),
    BitVec.extractLsb'_append_extractLsb'_eq_extractLsb' (by rfl)]
  exact BitVec.extractLsb'_eq_self

theorem deviceId_injective : Function.Injective deviceId := by
  intro a b h
  have hdigits : deviceIdDigits a = deviceIdDigits b := String.ofList_injective h
  simp only [deviceIdDigits, List.cons.injEq, hexDigit_injective.eq_iff, and_true] at hdigits
  obtain ⟨h3, h2, h1, h0⟩ := hdigits
  rw [← append_nibbles_of_word a, h3, h2, h1, h0, append_nibbles_of_word]

/-- Settles O33: each digit by its nibble; the four nibbles make the address again. (`deviceIdDigits` is the model's function.) -/
theorem deviceIdDigits_correct : Obligations.DeviceIdDigits := by
  refine ⟨fun a => ⟨rfl, rfl, fun k hk => ?_⟩, by decide, by decide, by decide, deviceId_injective⟩
  rw [deviceIdDigits_getElem? a hk, ← hexDigits_getElem?, extractNibble_toNat]
  rfl

end Sys2Proof.Machine
end

section
/-! SUPPORT. The framer on either side of 253 bytes, its round trips with the validator, and the errors no instruction
latches (43_frame_tx.md R180 to R185). -/

namespace Sys2Proof.Machine

/-! ### The framer -/

theorem fromTypeAndPayload_of_le (t : Byte) {p : List Byte} (h : p.length ≤ 253) :
    fromTypeAndPayload t p = .ok { typ := t, checksum := checksum p, payload := p } :=
  if_neg (Nat.not_lt.2 h)

theorem fromTypeAndPayload_of_gt (t : Byte) {p : List Byte} (h : 253 < p.length) :
    fromTypeAndPayload t p = .error .payloadTooLong :=
  if_pos h

theorem encodeBytes_of_le (t : Byte) {p : List Byte} (h : p.length ≤ 253) : encodeBytes t p = .ok (wireBytes t p) := by
  rw [encodeBytes, fromTypeAndPayload_of_le t h]
  rfl

theorem encodeBytes_of_gt (t : Byte) {p : List Byte} (h : 253 < p.length) :
    encodeBytes t p = .error .payloadTooLong := by
  rw [encodeBytes, fromTypeAndPayload_of_gt t h]

/-! ### The round trips -/

/-- The frame that the wire bytes of a payload that fits are read back as (40_frame_rx.md R104). -/
theorem fromBytes_wireBytes (t : Byte) {p : List Byte} (h : p.length ≤ 253) (now : Ts) :
    fromBytes (wireBytes t p) now = .ok { typ := t, checksum := checksum p, payload := p, receivedAt := now } :=
  fromBytes_eq_ok_iff.2 ⟨validate_wireBytes t h, rfl⟩

/-- A frame whose checksum is right serialises to the wire bytes of its type and payload (R181). -/
theorem toBytes_eq_wireBytes {f : BuiltFrame} (h : f.checksum = checksum f.payload) :
    toBytes f = wireBytes f.typ f.payload := by
  rw [wireBytes, ← h]

/-- Settles O39: what the framer makes are wire bytes, which validate and read back as the frame; a valid sequence is
the wire bytes of its own type and payload. -/
theorem roundTripLaws : Obligations.RoundTripLaws := by
  refine ⟨fun t p now hfits => ?_, fun f now hchk hfits => ?_, fun raw t hvalid ht => ?_⟩
  · exact ⟨_, _, encodeBytes_of_le t hfits, validate_wireBytes t hfits, fromBytes_wireBytes t hfits now, rfl, rfl, rfl⟩
  · rw [toBytes_eq_wireBytes hchk]
    exact ⟨_, fromBytes_wireBytes f.typ hfits now, rfl⟩
  · rw [encodeBytes_of_le t (payload_length_of_validate hvalid), ← byteAt_of_getElem? ht, wireBytes_of_validate hvalid]

/-! ### The errors that are latched -/

/-- Every frame end latches the image of some result, its error one of R88 (30_encoding.md). -/
theorem res_of_endsFrame {i : Instr} (h : endsFrame i = true) (s : State) :
    ∃ r, (nextState i s).res = resultRegs r ∧ ∀ e, r = .error e → e ∈ latchedErrors := by
  cases i with
  | rxe | rxbe => exact ⟨_, rfl, fun e => rxResult_error⟩
  | sensorTh f now | sensorT f now =>
    refine ⟨_, rfl, fun e he => ?_⟩
    rw [decodeSensor_sensorBytes] at he
    split at he <;> cases he
    decide
  | generic typ payload now =>
    refine ⟨_, rfl, fun e he => ?_⟩
    rw [genericResult_wireBytes] at he
    split at he <;> cases he
    decide
  | rst | nop | rxb | txb | txe | txbe => cases h

/-- `InvalidTypeTag` is no result of the receive unit (43_frame_tx.md R184). -/
theorem resErr_nextState_ne_seven (i : Instr) {s : State} (h : s.res.resErr ≠ 7) : (nextState i s).res.resErr ≠ 7 := by
  cases hends : endsFrame i
  · by_cases hrst : i = .rst
    · subst hrst
      exact (by decide : (0 : BitVec 4) ≠ 7)
    · rwa [res_of_not_endsFrame hends hrst]
  · obtain ⟨r, hres, herr⟩ := res_of_endsFrame hends s
    rw [hres]
    cases r with
    | error e =>
      have hcode : ∀ e ∈ latchedErrors, e.code ≠ 7 := by decide
      exact hcode e (herr e rfl)
    | ok m =>
      rw [resultRegs_ok_resErr]
      decide

/-- `TXE` latches no error or `PayloadTooLong` (R187). -/
theorem txhErr_headerRegs (t : Byte) (u : TxUnit) : (headerRegs t u).txhErr = 0 ∨ (headerRegs t u).txhErr = 8 := by
  unfold headerRegs
  split
  · exact .inr rfl
  · exact .inl rfl

/-- `InvalidTypeTag` is no error of the header registers: `tx_type` is one byte (R184). -/
theorem txhErr_nextState_ne_seven (i : Instr) {s : State} (h : s.txh.txhErr ≠ 7) :
    (nextState i s).txh.txhErr ≠ 7 := by
  have built (t : Byte) (u : TxUnit) : (headerRegs t u).txhErr ≠ 7 := by
    rcases txhErr_headerRegs t u with herr | herr <;> rw [herr] <;> decide
  cases i with
  | rst => exact (by decide : (0 : BitVec 4) ≠ 7)
  | nop => exact h
  | txb b => rwa [nextState, txByte_txh]
  | txe t => exact built t _
  | txbe b t => exact built t _
  | rxb | rxe | rxbe | sensorTh | sensorT | generic => rwa [(nextState_of_isReceive rfl s).2]

/-- Settles O38: the framer by the length of the payload, the tag by its length, and what each half can latch. -/
theorem framerErrors : Obligations.FramerErrors := by
  refine ⟨fun t p => ⟨fun h => ⟨fromTypeAndPayload_of_gt t h, encodeBytes_of_gt t h⟩, fromTypeAndPayload_of_le t⟩,
    rfl, rfl, fun tag p htag => ?tag, fun t p => rfl,
    fun i s => ⟨_, exec_eq_nextState i s, resErr_nextState_ne_seven i, txhErr_nextState_ne_seven i⟩⟩
  case tag =>
    match tag, htag with
    | [], _ => rfl
    | [_], htag => exact absurd rfl htag
    | _ :: _ :: _, _ => rfl

end Sys2Proof.Machine
end

section
/-! SUPPORT. What each transmit event selects, writes and leaves: `TXB`, `TXE`, `TXBE` (43_frame_tx.md R186 to R188). -/

namespace Sys2Proof.Machine

/-! ### The words that select the transmit events -/

theorem txb_mem_eventsOf_iff {inp : Input} {b : Byte} : .txb b ∈ eventsOf inp ↔
    inp.ew &&& 0x1c000000#29 = 0x04000000#29 ∧ b = ewTxData inp.ew := by
  simpa using mem_eventsOf_of_isTransmit (inp := inp) (i := .txb b) rfl

theorem txe_mem_eventsOf_iff {inp : Input} {t : Byte} : .txe t ∈ eventsOf inp ↔
    inp.ew &&& 0x1c000000#29 = 0x08000000#29 ∧ t = ewTxType inp.ew := by
  simpa using mem_eventsOf_of_isTransmit (inp := inp) (i := .txe t) rfl

theorem txbe_mem_eventsOf_iff {inp : Input} {b t : Byte} : .txbe b t ∈ eventsOf inp ↔
    inp.ew &&& 0x1c000000#29 = 0x0c000000#29 ∧ b = ewTxData inp.ew ∧ t = ewTxType inp.ew := by
  simpa using mem_eventsOf_of_isTransmit (inp := inp) (i := .txbe b t) rfl

/-! ### The buffers after a byte and after an end -/

/-- A byte accepted is stored at the count (R186). -/
theorem memRead_txByte_same (b : Byte) {s : State} (h : s.tx.txcnt.toNat < 253) :
    memRead .txbuf s.tx.txcnt.toNat (txByte b s) = some b := by
  have hroom : s.tx.txcnt.toNat < Config.txBufBytes := h
  simp [memRead, bufferOf, hroom]

/-- No other byte of TXBUF is written, and none at all by a byte that is dropped (R186). -/
theorem memRead_txByte_other (b : Byte) {s : State} {a : Nat} (h : a ≠ s.tx.txcnt.toNat ∨ 253 ≤ s.tx.txcnt.toNat) :
    memRead .txbuf a (txByte b s) = memRead .txbuf a s := by
  simp only [memRead, bufferOf, txByte_txbuf, Config.txBufBytes]
  split
  · exact Mem.read_write_other _ _ _ _ (by omega)
  · rfl

/-- A byte offered is no matter of RXBUF (20_memory.md R60). -/
@[simp] theorem memRead_rxbuf_txByte (b : Byte) (a : Nat) (s : State) :
    memRead .rxbuf a (txByte b s) = memRead .rxbuf a s := by
  simp [memRead, bufferOf]

/-- Building a frame writes neither buffer (R187). -/
@[simp] theorem memRead_txEnd (sp : Space) (t : Byte) (a : Nat) (s : State) :
    memRead sp a (txEnd t s) = memRead sp a s := by
  cases sp <;> rfl

/-! ### `TXB` -/

/-- A closed transmit window shows no byte (R189, log entry 14). -/
theorem txrData_of_closed {s : State} (h : transmitOpen s = false) (idx : Byte) :
    txrData idx s = .error .transmitWindowClosed := by
  simp [txrData, h]

/-- A byte accepted counts and is summed (R186). -/
theorem txByte_of_lt (b : Byte) {s : State} (h : s.tx.txcnt.toNat < 253) :
    (txByte b s).tx.txcnt.toNat = s.tx.txcnt.toNat + 1 ∧ (txByte b s).tx.txacc = s.tx.txacc + b ∧
      (txByte b s).tx.txOvf = s.tx.txOvf := by
  have hroom : s.tx.txcnt.toNat < Config.txBufBytes := h
  rw [txByte_txcnt, txByte_txacc, txByte_txOvf, if_pos hroom, if_pos hroom, if_pos hroom, BitVec.toNat_add]
  exact ⟨Nat.mod_eq_of_lt (by simp; omega), rfl, rfl⟩

/-- A byte dropped sets `tx_ovf` and nothing else (R186). -/
theorem txByte_of_ge (b : Byte) {s : State} (h : 253 ≤ s.tx.txcnt.toNat) :
    txByte b s = { s with tx := { s.tx with txOvf := true } } :=
  if_neg (Nat.not_lt.2 h)

/-- A byte offered makes the unit busy (R31). -/
@[simp] theorem txBusy_txByte (b : Byte) (s : State) : txBusy (txByte b s) = true := by
  by_cases hroom : s.tx.txcnt.toNat < 253
  · obtain ⟨hcnt, -, -⟩ := txByte_of_lt b hroom
    have hne : (txByte b s).tx.txcnt ≠ 0 := fun h => by
      rw [h] at hcnt
      exact absurd hcnt (by simp)
    simp only [txBusy, bne_iff_ne.2 hne, Bool.true_or]
  · rw [txByte_of_ge b (Nat.not_lt.1 hroom)]
    exact Bool.or_true _

/-- Settles O34: an accepted byte and a dropped one each by their law. -/
theorem txbAcceptsOneByte : Obligations.TxbAcceptsOneByte := by
  refine ⟨fun inp b => txb_mem_eventsOf_iff, fun b s => ⟨_, exec_txb b s, fun hroom => ?accepted, fun hfull => ?dropped,
    fun a => memRead_rxbuf_txByte b a s, txByte_txh b s, txByte_rx b s, txByte_res b s, txByte_params b s,
    txByte_script b s, txByte_envIdx b s, txBusy_txByte b s, txrData_of_closed (transmitOpen_txByte b s)⟩⟩
  case accepted =>
    obtain ⟨hcnt, hacc, hovf⟩ := txByte_of_lt b hroom
    exact ⟨hcnt, hacc, hovf, memRead_txByte_same b hroom, fun a ha => memRead_txByte_other b (.inl ha)⟩
  case dropped => exact ⟨by rw [txByte_of_ge b hfull], fun a => memRead_txByte_other b (.inr hfull)⟩

/-! ### `TXE` and `TXBE` -/

/-- Settles O35: the header by `tx_ovf`; the length byte does not wrap for a payload that was accepted. -/
theorem txeBuildsHeader : Obligations.TxeBuildsHeader := by
  refine ⟨fun inp t => ⟨txe_mem_eventsOf_iff, fun hmem => (txStrobe_iff inp).2 (.inl ⟨t, hmem⟩)⟩, fun t s =>
    ⟨_, exec_txe t s, fun hovf => ?failed, fun hovf => ?built, rfl, rfl, rfl, rfl, fun a => memRead_txEnd _ t a s,
      fun a => memRead_txEnd _ t a s, rfl, rfl, rfl, rfl, rfl⟩⟩
  case failed =>
    rw [txEnd_txh, headerRegs, if_pos hovf]
    exact ⟨rfl, rfl, rfl, rfl, rfl, rfl⟩
  case built =>
    rw [txEnd_txh, headerRegs, if_neg (by simp [hovf])]
    refine ⟨rfl, rfl, rfl, rfl, rfl, rfl, fun hle => ?_⟩
    rw [BitVec.toNat_add]
    exact Nat.mod_eq_of_lt (by simp; omega)

/-- Settles O36: the state is that of `TXE` after `TXB`, and the end writes no buffer. -/
theorem txbeIsByteThenEnd : Obligations.TxbeIsByteThenEnd := by
  refine ⟨fun inp b t => txbe_mem_eventsOf_iff, fun b t s => ⟨_, exec_txbe b t s,
    by rw [runInstrs_pair_next (exec_txb b s), exec_txe], fun hroom => ?_, fun a ha => ?_, fun a => ?_, rfl, rfl, rfl,
    txByte_rx b s, txByte_res b s, txByte_params b s, txByte_script b s, txByte_envIdx b s⟩⟩
  · rw [memRead_txEnd, memRead_txByte_same b hroom]
  · rw [memRead_txEnd, memRead_txByte_other b ha]
  · rw [memRead_txEnd, memRead_rxbuf_txByte]

end Sys2Proof.Machine
end

section
/-! SUPPORT. A payload streamed into the transmit unit, the frame built of it, its bytes to send, and their way back
through the receive unit (43_frame_tx.md R183, R189, R190). -/

namespace Sys2Proof.Machine

/-! ### The bytes of a run inside a payload -/

/-- What stands inside a payload offers a byte or leaves the transmit unit (R190). -/
theorem insidePayload_cases {i : Instr} (h : insidePayload i = true) :
    (∃ b, i = .txb b) ∨ (offeredByte i = none ∧ ∀ s, (nextState i s).tx = s.tx) := by
  cases i with
  | txb b => exact .inl ⟨b, rfl⟩
  | nop => exact .inr ⟨rfl, fun _ => rfl⟩
  | rxb | rxe | rxbe | sensorTh | sensorT | generic => exact .inr ⟨rfl, fun s => (nextState_of_isReceive rfl s).1⟩
  | rst | txe | txbe => cases h

/-- After a run inside a payload the unit was offered the bytes of the run's `TXB` events as well (R190). -/
theorem TxTracks.run_insidePayload {is : List Instr} (his : ∀ i ∈ is, insidePayload i = true) {bs : List Byte}
    {s : State} (h : TxTracks bs s) :
    TxTracks (bs ++ is.filterMap offeredByte) (is.foldl (fun t i => nextState i t) s) := by
  induction is generalizing bs s with
  | nil => simpa using h
  | cons i is ih =>
    obtain ⟨hi, hrest⟩ := List.forall_mem_cons.1 his
    rcases insidePayload_cases hi with ⟨b, rfl⟩ | ⟨hnone, htx⟩
    · rw [List.filterMap_cons_some (show offeredByte (.txb b) = some b from rfl), List.append_cons]
      exact ih hrest (txTracks_txByte b h)
    · rw [List.filterMap_cons_none hnone]
      exact ih hrest (h.of_tx_eq (htx s))

/-- A payload streamed into an idle unit and built leaves the transmit half of a frame just built (R190). -/
theorem txReflects_of_streamed_payload {s : State} {is : List Instr} (t : Byte) (hs : TxTracks [] s)
    (his : ∀ i ∈ is, insidePayload i = true) :
    ∃ u, runInstrs (is ++ [.txe t]) s = .next u ∧ TxReflects [] (some (t, is.filterMap offeredByte)) u :=
  ⟨_, by rw [runInstrs_append_next (runInstrs_eq_foldl is s), runInstrs_singleton, exec_txe],
    (hs.run_insidePayload his).txReflects_txEnd t⟩

/-- `NOP` and receive events leave the transmit half (20_memory.md R60). -/
theorem TxReflects.run_receive {bs : List Byte} {last : Option (Byte × List Byte)} {is : List Instr} {s : State}
    (h : TxReflects bs last s) (his : ∀ i ∈ is, isReceive i = true ∨ i = .nop) :
    TxReflects bs last (is.foldl (fun t i => nextState i t) s) := by
  induction is generalizing s with
  | nil => exact h
  | cons i is ih =>
    obtain ⟨hi | rfl, hrest⟩ := List.forall_mem_cons.1 his
    · exact ih (h.of_isReceive hi) hrest
    · exact ih h hrest

/-! ### The bytes to send -/

/-- The bytes to send are wire bytes where the header is that of the bytes in TXBUF (R189). -/
theorem bytesToSend_eq_wireBytes {s : State} (hfits : s.txh.txhN.toNat ≤ 253)
    (hlen : s.txh.txhLen.toNat = s.txh.txhN.toNat + 2)
    (hchk : checksum (bufBytes s.tx.txbuf s.txh.txhN.toNat) = s.txh.txhChk) :
    bytesToSend s = wireBytes s.txh.txhType (bufBytes s.tx.txbuf s.txh.txhN.toNat) := by
  have hbyte : s.txh.txhLen = lengthByte s.txh.txhN.toNat :=
    BitVec.eq_of_toNat_eq (by rw [hlen, lengthByte_toNat hfits])
  simp only [bytesToSend, wireBytes, toBytes, bufBytes_length, hbyte, hchk]

/-- Settles O50: the invariant makes the bytes to send the wire bytes of the header's type and the payload held. -/
theorem bytesToSendAreValid : Obligations.BytesToSendAreValid := by
  intro s hs hopen
  have hvalid : s.txh.txhValid = true := by
    simp only [transmitOpen, Bool.and_eq_true] at hopen
    obtain ⟨⟨hvalid, -⟩, -⟩ := hopen
    exact hvalid
  obtain ⟨-, hlen, hfits⟩ := hs.txhLegal.built hvalid
  obtain ⟨-, hchk⟩ := hs.transmitWindow hopen
  have hpayload : (bufBytes s.tx.txbuf s.txh.txhN.toNat).length ≤ 253 := by rwa [bufBytes_length]
  rw [bytesToSend_eq_wireBytes hfits hlen hchk]
  exact ⟨validate_wireBytes _ hpayload,
    fun now => ⟨_, fromBytes_wireBytes _ hpayload now, rfl, hchk, bufBytes_length _ _⟩⟩

/-! ### The frame just built -/

/-- The header of a payload that fits (10_state.md R30). -/
theorem builtRegs_of_le (t : Byte) {p : List Byte} (h : p.length ≤ 253) :
    builtRegs t p =
      { txhValid := true, txhErr := 0, txhLen := BitVec.ofNat 8 (p.length + 2), txhType := t, txhChk := checksum p,
        txhN := BitVec.ofNat 8 p.length } := by
  rw [builtRegs, fromTypeAndPayload_of_le t h]

/-- The header of a payload that does not (R30, 43_frame_tx.md R187). -/
theorem builtRegs_of_gt (t : Byte) {p : List Byte} (h : 253 < p.length) :
    builtRegs t p = { HeaderRegs.zero with txhErr := 8 } := by
  rw [builtRegs, fromTypeAndPayload_of_gt t h]
  rfl

section
variable {t : Byte} {p : List Byte} {s : State} (h : TxReflects [] (some (t, p)) s)
include h

theorem TxReflects.txh_of_le (hfits : p.length ≤ 253) :
    s.txh =
      { txhValid := true, txhErr := 0, txhLen := BitVec.ofNat 8 (p.length + 2), txhType := t, txhChk := checksum p,
        txhN := BitVec.ofNat 8 p.length } :=
  h.txh.trans (builtRegs_of_le t hfits)

theorem TxReflects.txh_of_gt (hlong : 253 < p.length) : s.txh = { HeaderRegs.zero with txhErr := 8 } :=
  h.txh.trans (builtRegs_of_gt t hlong)

/-- A payload that fits has a valid header, and no other has (10_state.md R30). -/
theorem TxReflects.txhValid_iff : s.txh.txhValid = true ↔ p.length ≤ 253 := by
  by_cases hfits : p.length ≤ 253
  · simp [h.txh_of_le hfits, hfits]
  · simp [h.txh_of_gt (Nat.lt_of_not_le hfits), hfits, HeaderRegs.zero]

/-- After `TXE` the window is open exactly where it built a frame (43_frame_tx.md R189). -/
theorem TxReflects.transmitOpen_eq_txhValid : transmitOpen s = s.txh.txhValid := by
  have hcnt : s.tx.txcnt = 0 := BitVec.eq_of_toNat_eq h.tracks.txcnt
  have hovf : s.tx.txOvf = false := h.tracks.txOvf
  simp [transmitOpen, hcnt, hovf]

/-- `txh_n` is the length of the payload built (10_state.md R30). -/
theorem TxReflects.txhN_toNat (hfits : p.length ≤ 253) : s.txh.txhN.toNat = p.length := by
  rw [h.txh_of_le hfits, BitVec.toNat_ofNat]
  omega

/-- The bytes to send are those of the frame built (43_frame_tx.md R189). -/
theorem TxReflects.bytesToSend_eq (hfits : p.length ≤ 253) : bytesToSend s = wireBytes t p := by
  have hholds : HoldsBytes 253 s.tx.txbuf p := h.held rfl _ rfl
  have hbuf : bufBytes s.tx.txbuf s.txh.txhN.toNat = p := by rw [h.txhN_toNat hfits, hholds.bufBytes_eq hfits]
  rw [bytesToSend_eq_wireBytes, hbuf, h.txh_of_le hfits]
  · rwa [h.txhN_toNat hfits]
  · rw [h.txhN_toNat hfits, h.txh_of_le hfits, BitVec.toNat_ofNat]
    omega
  · rw [hbuf, h.txh_of_le hfits]

/-- In the open window the port shows the payload byte (R189). -/
theorem TxReflects.txrData_eq (hvalid : s.txh.txhValid = true) {idx : Byte} (hidx : idx.toNat < s.txh.txhN.toNat) :
    ∃ b, p[idx.toNat]? = some b ∧ txrData idx s = .ok b := by
  have hfits := h.txhValid_iff.1 hvalid
  have hin : idx.toNat < p.length := h.txhN_toNat hfits ▸ hidx
  have hread : memRead .txbuf idx.toNat s = some p[idx.toNat] := by
    rw [← List.getElem?_eq_getElem hin]
    exact h.held rfl _ rfl _ (by omega) hin
  exact ⟨_, List.getElem?_eq_getElem hin, by simp [txrData, h.transmitOpen_eq_txhValid, hvalid, hidx, hread]⟩

end

/-- Settles O37: after the run the header and TXBUF are those of `from_type_and_payload` of the bytes offered. -/
theorem streamingEqualsEncode : Obligations.StreamingEqualsEncode := by
  intro s is t hcnt hacc hovf his
  obtain ⟨u, hu, h⟩ := txReflects_of_streamed_payload t (txTracks_nil hcnt hacc hovf) his
  refine ⟨u, hu, fun hfits => ⟨h.txhValid_iff.2 hfits, ?_⟩, fun hlong => ?_⟩
  · rw [encodeBytes_of_le t hfits, h.bytesToSend_eq hfits]
  · rw [h.txh_of_gt hlong]
    exact ⟨rfl, rfl, encodeBytes_of_gt t hlong⟩

/-- Settles O46: the run leaves the frame just built in place, and the window follows its header. -/
theorem transmitReadout : Obligations.TransmitReadout := by
  intro p s ty is hs his
  have h : TxReflects [] (some (ty, p)) (is.foldl (fun t i => nextState i t) (txEnd ty s)) :=
    (hs.txReflects_txEnd ty).run_receive his
  refine ⟨_, by rw [runInstrs_cons_next (exec_txe ty s), runInstrs_eq_foldl], fun hvalid => ?built,
    fun hfailed => ?failed, fun b => ⟨_, exec_txb b _, txrData_of_closed (transmitOpen_txByte b _)⟩,
    ⟨_, exec_rst _, txrData_of_closed rfl⟩⟩
  case built =>
    have hfits := h.txhValid_iff.1 hvalid
    refine ⟨h.txhN_toNat hfits, h.bytesToSend_eq hfits, fun idx => h.txrData_eq hvalid, fun idx hidx => ?_⟩
    simp [txrData, Nat.not_lt.2 hidx]
  case failed => exact txrData_of_closed (h.transmitOpen_eq_txhValid.trans hfailed)

/-! ### The way back through the receive unit -/

/-- Building a payload is no matter of an idle receive unit (20_memory.md R60). -/
theorem rxTracks_of_txf {s u : State} {t : Byte} {p : List Byte} (hs : RxTracks [] s)
    (hu : runInstrs (txf t p) s = .next u) : RxTracks [] u ∧ u.params = s.params := by
  have hinside : ∀ i ∈ txf t p, insideFrame i = true := by
    simp only [txf, List.forall_mem_append, List.forall_mem_map, List.forall_mem_singleton]
    exact ⟨fun _ _ => rfl, rfl⟩
  have hnone : (txf t p).filterMap receivedByte = [] := by
    simp [txf, List.filterMap_map, receivedByte]
  obtain ⟨htracks, hparams⟩ := rxTracks_run (h := .empty) (txf t p) hs
  rw [runInstrs_eq_foldl, Host.Outcome.next.injEq] at hu
  rw [rxBytes_foldl_of_insideFrame hinside, hnone] at htracks
  exact hu ▸ ⟨htracks, hparams⟩

/-- After a frame end without error RXBUF still shows the payload (10_state.md R25). -/
theorem RxReflects.payloadBytes_eq {raw : List Byte} {now : Ts} {s : State} (h : RxReflects [] (some (raw, now)) s)
    (hnone : s.res.resErr = 0) : payloadBytes s = raw.drop 4 := by
  obtain ⟨hlen, hmax⟩ := h.length_of_noError hnone
  have hholds : HoldsBytes 257 s.rx.buf raw := h.held rfl _ rfl
  refine List.ext_getElem (by simp [payloadBytes]; omega) fun i hi _ => ?_
  have hi' : 4 + i < raw.length := by simp [payloadBytes] at hi; omega
  simp only [payloadBytes, List.getElem_map, List.getElem_range, List.getElem_drop]
  rw [hholds.bufByte_eq (by omega) hi', byteAt_of_getElem? (List.getElem?_eq_getElem hi')]

/-- What a valid frame latches: no error or `InvalidDigit`, and with the generic kind its type and checksum, without an
error (41_dispatch.md R130, 40_frame_rx.md R110). -/
theorem resultRegs_classifyValid (p : Config.Params) (raw : List Byte) (now : Ts) :
    let r := resultRegs (classifyValid p raw now)
    (r.resErr = 0 ∨ r.resErr = 6) ∧
      (r.resKind = 1 → r.resErr = 0 ∧ r.resType = byteAt raw 2 ∧ r.resChk = byteAt raw 3) := by
  rcases classifyValid_cases p raw now with h | h | ⟨r, h, -⟩ <;> rw [h]
  · exact ⟨.inl rfl, fun _ => ⟨rfl, rfl, rfl⟩⟩
  · exact ⟨.inr rfl, fun hkind => by cases hkind⟩
  · exact ⟨.inl rfl, fun hkind => by cases hkind⟩

/-- Settles O40: the bytes to send are the payload's wire bytes, which are a valid frame, and an idle unit that takes
them latches their classification. -/
theorem loopbackReturnsTheFrame : Obligations.LoopbackReturnsTheFrame := by
  intro s t p now htxcnt htxacc hovf hcnt hacc hfits
  have hinside : ∀ i ∈ p.map Instr.txb, insidePayload i = true := List.forall_mem_map.2 fun _ _ => rfl
  obtain ⟨u, hu, htx⟩ := txReflects_of_streamed_payload t (txTracks_nil htxcnt htxacc hovf) hinside
  rw [List.filterMap_map, show offeredByte ∘ Instr.txb = some from rfl, List.filterMap_some] at htx
  obtain ⟨hrx, hparams⟩ := rxTracks_of_txf (rxTracks_nil hcnt hacc) hu
  have hsend := htx.bytesToSend_eq hfits
  have hv := (rxTracks_takeBytes (bytesToSend u) hrx).rxReflects_rxEnd now
  have hres : (rxEnd now (takeBytes (bytesToSend u) u)).res =
      resultRegs (classifyValid s.params (bytesToSend u) now) := by
    rw [hv.res, resultOf, rxEnd_params, takeBytes_params, hparams, hsend,
      classify_of_validate (validate_wireBytes t hfits)]
  obtain ⟨herr, hgeneric⟩ := resultRegs_classifyValid s.params (bytesToSend u) now
  refine ⟨u, _, hu, runInstrs_rxf _ now u, hres, fun hkind => ?_, hres ▸ herr⟩
  obtain ⟨hnone, htype, hchk⟩ := hgeneric (hres ▸ hkind)
  rw [hv.payloadBytes_eq (hres ▸ hnone), hres, htype, hchk, hsend]
  exact ⟨rfl, rfl, rfl⟩

end Sys2Proof.Machine
end

section
/-! SUPPORT. What no run of events writes, so that every step completes, and what an error leaves behind
(60_exceptions.md R200, R206). -/

namespace Sys2Proof.Machine

/-! ### Every step completes -/

/-- No run of events writes the parameters or takes an input (00_scope.md R6, log entry 1). -/
theorem inputs_of_run (is : List Instr) (s : State) :
    (is.foldl (fun t i => nextState i t) s).params = s.params ∧
      (is.foldl (fun t i => nextState i t) s).script = s.script ∧
      (is.foldl (fun t i => nextState i t) s).envIdx = s.envIdx := by
  induction is generalizing s with
  | nil => exact ⟨rfl, rfl, rfl⟩
  | cons i is ih => simpa using ih (nextState i s)

/-- A step takes exactly one input, from the script or, at its end, a free one (10_state.md R35, log entry 1). -/
theorem sample_takes_one_input (s : State) :
    (sample s).2.params = s.params ∧ (sample s).2.script = s.script.tail ∧
      (sample s).2.envIdx = s.envIdx + (if s.script = [] then 1 else 0) := by
  cases hscript : s.script with
  | nil => simp [sample, hscript]
  | cons inp rest => simp [sample, hscript]

/-- Settles O7: a step samples one input and then runs its events to the end, which write neither the parameters nor
what is left of the inputs. -/
theorem everyStepCompletes : Obligations.EveryStepCompletes := by
  intro s
  obtain ⟨hparams, hscript, hidx⟩ := sample_takes_one_input s
  obtain ⟨hparams', hscript', hidx'⟩ := inputs_of_run (eventsOf (atPorts (sample s).2.params (sample s).1)) (sample s).2
  exact ⟨_, runInstrs_eq_foldl _ _, hparams'.trans hparams, hscript'.trans hscript, hidx'.trans hidx⟩

/-! ### What an error leaves behind -/

/-- A result latched with a code is an error's image, and holds nothing but the code (10_state.md R26, R206). -/
theorem resultRegs_of_resErr_ne_zero {r : Result Message} (h : (resultRegs r).resErr ≠ 0) :
    resultRegs r = { ResultRegs.zero with resValid := true, resErr := (resultRegs r).resErr } := by
  cases r with
  | error e => rfl
  | ok m => exact absurd (resultRegs_ok_resErr m) h

/-- A header with a code holds nothing but `PayloadTooLong` (43_frame_tx.md R187). -/
theorem headerRegs_of_txhErr_ne_zero {t : Byte} {u : TxUnit} (h : (headerRegs t u).txhErr ≠ 0) :
    headerRegs t u = { HeaderRegs.zero with txhErr := 8 } := by
  cases hovf : u.txOvf with
  | true => simp [headerRegs, hovf, ErrorCode.code]
  | false => simp [headerRegs, hovf] at h

/-- Settles O20: on either side the end latches an image that holds only the code, clears its own working registers and
leaves the other half; a byte taken before the end leaves the other half too. -/
theorem errorsRecordTheirCodeOnly : Obligations.ErrorsRecordTheirCodeOnly := by
  refine ⟨fun now s => ?rxe, fun b now s => ?rxbe, fun b t s =>
    List.forall_mem_cons.2 ⟨?txe, List.forall_mem_singleton.2 ?txbe⟩⟩
  case rxe => exact ⟨_, exec_rxe now s, fun herr => ⟨resultRegs_of_resErr_ne_zero herr, rfl, rfl, rfl, rfl, rfl⟩⟩
  case rxbe =>
    exact ⟨_, exec_rxbe b now s,
      fun herr => ⟨resultRegs_of_resErr_ne_zero herr, rfl, rfl, rxByte_tx b s, rxByte_txh b s⟩⟩
  case txe =>
    exact ⟨_, exec_txe t s, fun herr => ⟨headerRegs_of_txhErr_ne_zero herr, rfl, rfl, rfl, rfl, rfl⟩⟩
  case txbe =>
    exact ⟨_, exec_txbe b t s,
      fun herr => ⟨headerRegs_of_txhErr_ne_zero herr, rfl, rfl, rfl, txByte_rx b s, txByte_res b s⟩⟩

end Sys2Proof.Machine
end

section
/-! SUPPORT. What a reset step leaves, and which instructions a result outlives (70_reset_and_hazards.md R230, R235). -/

namespace Sys2Proof.Machine

/-! ### The result window -/

/-- Taking a byte neither reads nor writes the result registers (40_frame_rx.md R105). -/
theorem rxByte_with_res (b : Byte) (s : State) (r : ResultRegs) :
    rxByte b { s with res := r } = { rxByte b s with res := r } := by
  by_cases hroom : s.rx.cnt.toNat < Config.bufBytes <;> simp [rxByte, hroom, memWrite]

/-- A frame end latches what the receive unit and the parameters give: nothing of the old result (R235). -/
theorem rxEnd_with_res (now : Ts) (s : State) (r : ResultRegs) : rxEnd now { s with res := r } = rxEnd now s := rfl

/-- What ends a frame or resets latches a result in which nothing of the earlier one is left (R235). -/
theorem nextState_res_with_res {i : Instr} (hi : endsFrame i = true ∨ i = .rst) (s : State) (r : ResultRegs) :
    (nextState i { s with res := r }).res = (nextState i s).res := by
  cases i with
  | rst | rxe => rfl
  | rxbe b now => simp only [nextState, rxByte_with_res, rxEnd_with_res]
  | sensorTh | sensorT | generic => simp only [nextState, receiveFrame_res]
  | nop | rxb | txb | txe | txbe => simp [endsFrame] at hi

/-- Settles O44: other events leave the registers, and an end or a reset latches the same image whatever they held. -/
theorem resultWindow : Obligations.ResultWindow :=
  ⟨fun i s hends hrst => ⟨_, exec_eq_nextState i s, res_of_not_endsFrame hends hrst s⟩,
    fun i s r hi => ⟨_, _, exec_eq_nextState i s, exec_eq_nextState i _, (nextState_res_with_res hi s r).symm⟩⟩

/-! ### Reset -/

/-- A word with `rst` is `RST` alone: the other strobes are overridden (30_encoding.md R81). -/
theorem eventsOf_of_ewRst {inp : Input} (h : ewRst inp.ew = true) : eventsOf inp = [.rst] := if_pos h

/-- A frame ended with no byte taken is too short (40_frame_rx.md R106, R108). -/
theorem rxResult_of_rxTracks_nil {s : State} (now : Ts) (h : RxTracks [] s) :
    rxResult now s = .error .frameTooShort := rxResult_of_rxTracks now h

/-- Settles O8: `resetRegs` clears every register but no buffer, so that both windows close and no byte taken is left;
the word's other strobes count only where `rst` is 0. -/
theorem rstClearsRegistersOnly : Obligations.RstClearsRegistersOnly := by
  refine ⟨fun s => ⟨resetRegs s, exec_rst s, ?registers⟩, fun inp hrst => ?word,
    fun inp hrst hmem => by simp [rst_mem_eventsOf_iff, hrst] at hmem⟩
  case registers =>
    have hpl : ∀ idx, plData idx (resetRegs s) = .error .payloadWindowClosed := plData_of_closed rfl
    have htxr : ∀ idx, txrData idx (resetRegs s) = .error .transmitWindowClosed := txrData_of_closed rfl
    have hempty (now : Ts) : rxResult now (resetRegs s) = .error .frameTooShort :=
      rxResult_of_rxTracks_nil now (rxTracks_nil rfl rfl)
    simp [ResultRegs.zero, HeaderRegs.zero, hpl, htxr, hempty, resultRegs]
  case word => exact ⟨eventsOf_of_ewRst hrst, by simp [resStrobe, hrst], by simp [txStrobe, hrst]⟩

end Sys2Proof.Machine
end
